-- ==== Sys2Proof/Word.lean ====
section
/-! DEFINITION. The words of the block: field values (R7, R9, R22), operands and the command word (R40). -/

namespace Sys2Proof

/-- A field value: an unsigned integer of `W = 16` bits (R7; 92_eei_decisions.md D2; log entry 1).
Arithmetic on it is modulo `2^16`, silently (R22). -/
abbrev Word := BitVec 16

/-- A command word: exactly 40 bits (R40). -/
abbrev CmdWord := BitVec 40

/-- `MAXW = 2^W - 1`, the largest field value (R7). -/
def MAXW : Nat := 65535

end Sys2Proof
end

