-- ==== Sys2Proof/Syntax.lean ====
section
/-! DEFINITION. The instructions: one constructor per row of spec/opcode_table.json (R46), and the names of the generators. -/

namespace Sys2Proof

/-- The three PulseGenerators (R7, `NGEN = 3`). -/
inductive Gen where
  | A
  | B
  | C
  deriving DecidableEq, Repr

/-- The host commands and the `TICK` event, one constructor per row of the opcode table (R46, R49). -/
inductive Instr where
  | msset (ticks : Word)
  | pgsetA (ticks cap : Word)
  | pgsetB (ticks cap : Word)
  | pgsetC (ticks cap : Word)
  | resyncB
  | resyncC
  | pgrstA
  | pgrstB
  | pgrstC
  | pgtogA
  | pgtogB
  | pgtogC
  | pgqryA
  | pgqryB
  | pgqryC
  | tick
  deriving DecidableEq, Repr

/-- `PGSET.x ticks, cap`. -/
def Instr.pgset : Gen → Word → Word → Instr
  | .A, t, c => .pgsetA t c
  | .B, t, c => .pgsetB t c
  | .C, t, c => .pgsetC t c

/-- `PGRST.x`. -/
def Instr.pgrst : Gen → Instr
  | .A => .pgrstA
  | .B => .pgrstB
  | .C => .pgrstC

/-- `PGTOG.x`. -/
def Instr.pgtog : Gen → Instr
  | .A => .pgtogA
  | .B => .pgtogB
  | .C => .pgtogC

/-- `PGQRY.x`. -/
def Instr.pgqry : Gen → Instr
  | .A => .pgqryA
  | .B => .pgqryB
  | .C => .pgqryC

end Sys2Proof
end

