-- ==== Sys2Proof/WellFormed.lean ====
section
/-! DEFINITION. Which command words are legal (R47, R49), read off the rows of spec/opcode_table.json, and which instructions
keep the host's contract (R62, R105 (c)). Every term of `Instr` is a legal instruction: its operands have the width of their
fields (R45), so legality is a check on words. -/

namespace Sys2Proof

/-- A row of the opcode table: a word is this row's when it agrees with `pattern` on the bits of `mask`. -/
structure Row where
  mnemonic : String
  mask : CmdWord
  pattern : CmdWord
  deriving DecidableEq, Repr

/-- The word belongs to the row. -/
def Row.covers (r : Row) (w : CmdWord) : Bool := w &&& r.mask == r.pattern

/-- The rows of the two commands with operands (R46). -/
def operandRows : List Row :=
  [⟨"MSSET", 0xFF0000FFFF, 0x1000000000⟩,
   ⟨"PGSET.A", 0xFF00000000, 0x2000000000⟩,
   ⟨"PGSET.B", 0xFF00000000, 0x2400000000⟩,
   ⟨"PGSET.C", 0xFF00000000, 0x2800000000⟩]

/-- The rows of the commands without operands, and of the trace encoding of `TICK` (R46, R49). -/
def plainRows : List Row :=
  [⟨"RESYNC.B", 0xFFFFFFFFFF, 0x3400000000⟩,
   ⟨"RESYNC.C", 0xFFFFFFFFFF, 0x3800000000⟩,
   ⟨"PGRST.A", 0xFFFFFFFFFF, 0x4000000000⟩,
   ⟨"PGRST.B", 0xFFFFFFFFFF, 0x4400000000⟩,
   ⟨"PGRST.C", 0xFFFFFFFFFF, 0x4800000000⟩,
   ⟨"PGTOG.A", 0xFFFFFFFFFF, 0x5000000000⟩,
   ⟨"PGTOG.B", 0xFFFFFFFFFF, 0x5400000000⟩,
   ⟨"PGTOG.C", 0xFFFFFFFFFF, 0x5800000000⟩,
   ⟨"PGQRY.A", 0xFFFFFFFFFF, 0x6000000000⟩,
   ⟨"PGQRY.B", 0xFFFFFFFFFF, 0x6400000000⟩,
   ⟨"PGQRY.C", 0xFFFFFFFFFF, 0x6800000000⟩,
   ⟨"TICK", 0xFFFFFFFFFF, 0x7000000000⟩]

/-- spec/opcode_table.json, row by row. -/
def opcodeTable : List Row := operandRows ++ plainRows

/-- A legal word of an event trace: one the table lists (R49). Every other word is reserved (R47). -/
def traceWordWf (w : CmdWord) : Bool := opcodeTable.any (·.covers w)

/-- A legal word on the command port: `TICK` is reserved there (R47 (g), R49). -/
def commandWordWf (w : CmdWord) : Bool := traceWordWf w && w != 0x7000000000

/-- The instruction keeps the host's contract: `PGSET.x` has `ticks >= 1` (R62, R105 (c)). A breach is
`violation DegeneratePeriod` (R121); the word is legal all the same (R48). -/
def Instr.meetsContract : Instr → Bool
  | .pgsetA t _ => t != 0
  | .pgsetB t _ => t != 0
  | .pgsetC t _ => t != 0
  | .msset _ => true
  | .resyncB => true
  | .resyncC => true
  | .pgrstA => true
  | .pgrstB => true
  | .pgrstC => true
  | .pgtogA => true
  | .pgtogB => true
  | .pgtogC => true
  | .pgqryA => true
  | .pgqryB => true
  | .pgqryC => true
  | .tick => true

end Sys2Proof
end

