-- ==== Sys2Proof/Decode.lean ====
section
/-! DEFINITION. The fields of a command word (R41), the decoding procedure (R50), the decoder of the command port (R47 (g)), and
the encoder (R49). -/

namespace Sys2Proof

/-- `op = word[39:36]` (R41). -/
def opField (w : CmdWord) : BitVec 4 := w.extractLsb' 36 4

/-- `sel = word[35:34]` (R41). -/
def selField (w : CmdWord) : BitVec 2 := w.extractLsb' 34 2

/-- `rsv = word[33:32]` (R41). -/
def rsvField (w : CmdWord) : BitVec 2 := w.extractLsb' 32 2

/-- `ticks = word[31:16]` (R41, R45: `zext_W`, and `W = 16`). -/
def ticksField (w : CmdWord) : Word := w.extractLsb' 16 16

/-- `cap = word[15:0]` (R41, R45). -/
def capField (w : CmdWord) : Word := w.extractLsb' 0 16

/-- Selector encoding (R42): `11` is reserved. -/
def Gen.ofSel (sel : BitVec 2) : Option Gen :=
  match sel.toNat with
  | 0 => some .A
  | 1 => some .B
  | 2 => some .C
  | _ => none

/-- `RESYNC` exists for B and C only (R47 (d)). -/
def Instr.resyncOf? : Gen → Option Instr
  | .A => none
  | .B => some .resyncB
  | .C => some .resyncC

/-- A command of format `N` that addresses a generator: both operand fields are zero (R44). -/
def decodePlain (w : CmdWord) (command : Gen → Option Instr) : Option Instr :=
  if ticksField w = 0 ∧ capField w = 0 then (Gen.ofSel (selField w)).bind command else none

/-- R50, the decoding procedure, total on all 40-bit words; `none` is a reserved word. It reads a word of a trace, so
`0x7000000000` is `TICK`. -/
def decode (w : CmdWord) : Option Instr :=
  if rsvField w ≠ 0 ∨ selField w = 3 then none
  else
    match (opField w).toNat with
    | 1 => if selField w = 0 ∧ capField w = 0 then some (.msset (ticksField w)) else none
    | 2 => (Gen.ofSel (selField w)).map (fun x => Instr.pgset x (ticksField w) (capField w))
    | 3 => decodePlain w Instr.resyncOf?
    | 4 => decodePlain w (fun x => some (Instr.pgrst x))
    | 5 => decodePlain w (fun x => some (Instr.pgtog x))
    | 6 => decodePlain w (fun x => some (Instr.pgqry x))
    | 7 => if selField w = 0 ∧ ticksField w = 0 ∧ capField w = 0 then some .tick else none
    | _ => none

/-- The decoder of the command port: `op = 0x7` is reserved there (R47 (g), R49), so the host cannot make the master
advance. -/
def decodeCommand (w : CmdWord) : Option Instr :=
  if opField w = 7 then none else decode w

/-- `word = op ++ sel ++ rsv ++ ticks ++ cap`, the top byte being `op*16 + sel*4` (R41). -/
def word (top : BitVec 8) (ticks cap : Word) : CmdWord := top ++ ticks ++ cap

/-- The word of an instruction, from the list of legal words (R49). -/
def encode : Instr → CmdWord
  | .msset t => word 0x10 t 0
  | .pgsetA t c => word 0x20 t c
  | .pgsetB t c => word 0x24 t c
  | .pgsetC t c => word 0x28 t c
  | .resyncB => word 0x34 0 0
  | .resyncC => word 0x38 0 0
  | .pgrstA => word 0x40 0 0
  | .pgrstB => word 0x44 0 0
  | .pgrstC => word 0x48 0 0
  | .pgtogA => word 0x50 0 0
  | .pgtogB => word 0x54 0 0
  | .pgtogC => word 0x58 0 0
  | .pgqryA => word 0x60 0 0
  | .pgqryB => word 0x64 0 0
  | .pgqryC => word 0x68 0 0
  | .tick => word 0x70 0 0

/-- The word of an opcode-table row: `nbits` bits of `w`, the bits above them zero. A command word is one 40-bit value, so
the table's numbering is the word's own (R9, R31). -/
def tableWord (nbits w : Nat) : CmdWord := BitVec.ofNat 40 (w % 2 ^ nbits)

/-- The instruction the decoder reads from a table word of `nbits` bits. No instruction is longer than 40 bits (R40). -/
def decodeTableWord (nbits w : Nat) : Option Instr :=
  if nbits ≤ 40 then decode (tableWord nbits w) else none

end Sys2Proof
end

