-- ==== Sys2Proof/Config.lean ====
section
/-! DEFINITION. What is fixed for the machine: the parameters of R7, the two switches of 92_eei_decisions.md, the power-on
values this model names, and the free values a RESET draws (R23). -/

namespace Sys2Proof

/-- Where inside a master wrap the pending resynchronisations are applied (92_eei_decisions.md, notes on D6):
straight after generator A's clock, or after all three clocks. -/
inductive ResyncPoint where
  | afterA
  | afterC
  deriving DecidableEq, Repr

/-- One value for every piece of state that R23 leaves unspecified after `RESET`. The three output bits are not here:
R23 gives them. -/
structure ResetDraw where
  msPeriod : Word
  msPos : Word
  resetB : Bool
  resetC : Bool
  periodA : Word
  dutyA : Word
  posA : Word
  periodB : Word
  dutyB : Word
  posB : Word
  periodC : Word
  dutyC : Word
  posC : Word
  rsp : Bool
  deriving DecidableEq, Repr, Inhabited

/-- `RESYNC_POINT`: the spec's decision D6 (R85, R88). -/
def Config.resyncPoint : ResyncPoint := .afterA

/-- `MS_PERIOD_BIAS`: what `MSSET` subtracts before it stores; the spec's decision D4 is 0 (R81). -/
def Config.msPeriodBias : Word := 0

/-- `A_BASE_TICKS`: the `ticks` operand the RateController gives generator A (R7). -/
def Config.aBaseTicks : Word := 48

/-- FREE VALUE (log entry 3). The values the `n`-th `RESET` event of a run leaves in every register, flag and in `rsp` that
R23 calls unspecified: "one fixed but unknown value per register, chosen at `RESET` (a draw)". Nothing is known of it. -/
opaque Config.resetDraw : Nat → ResetDraw

/-- DESIGN CHOICE (log entry 2, unsafe). The values of `State.reset` where R23 gives none. They are the draw that
95_test_vectors.md program P1 names ("one possible draw of the unspecified reset values"); U4 forbids picking zero.
P1 says nothing of `rsp`: 1 is named here, the answer no query gives right after `RESET`. -/
def Config.powerOnDraw : ResetDraw where
  msPeriod := 4660
  msPos := 7
  resetB := true
  resetC := false
  periodA := 9
  dutyA := 9
  posA := 3
  periodB := 0
  dutyB := 5
  posB := 60000
  periodC := 65535
  dutyC := 0
  posC := 2
  rsp := true

end Sys2Proof
end

