-- ==== Sys2Proof/Machine/State.lean ====
section
/-! DEFINITION. The state of the block (R10, R11), the events it reacts to (R3), its reset value (R23), and the reasons a step
can stop. -/

namespace Sys2Proof.Machine

/-- A PulseGenerator (R10, R12): `period` is the wrap index, `duty` the pulse-end index, `pos` the phase counter, and `out` the
output bit, `true` for ASSERTED (R13). -/
structure PulseGen where
  period : Word
  duty : Word
  pos : Word
  out : Bool
  deriving DecidableEq, Repr

/-- The MasterScheduler (R10, R15, R16). -/
structure Master where
  period : Word
  pos : Word
  resetB : Bool
  resetC : Bool
  deriving DecidableEq, Repr

/-- What arrives at the ports (R3, R19): a `RESET`, a `TICK`, or a word on the command port. -/
inductive Event where
  | reset
  | tick
  | cmd (w : CmdWord)
  deriving DecidableEq, Repr

/-- The whole machine. The first five fields are the spec's (R10, and `rsp` of R43). The last three are the model's own:
`violation` is the sticky mark of 93_implementation_defined.md U1, `resets` counts the `RESET` events so that each draws
afresh, and `inputs` holds the events the environment will still apply, in the run's total order (R34), earliest first. -/
structure State where
  ms : Master
  pgA : PulseGen
  pgB : PulseGen
  pgC : PulseGen
  rsp : Bool
  violation : Bool
  resets : Nat
  inputs : List Event
  deriving DecidableEq, Repr

/-- The block raises no exception, reports no error and has no error state (R120), so no reason exists. -/
inductive Fault where
  deriving DecidableEq, Repr

/-- Why a step gives an event no meaning. -/
inductive Refusal where
  /-- An instruction without a meaning; raised only by an arm of `exec`, and no arm of this model does. Safe. -/
  | notModelled (mnemonic : String)
  /-- The command port got a reserved word (R47); its effect is not defined and a model refuses it (R48, U3). Raised by
  `applyCommand`. Safe: a run that meets one has no later state. -/
  | reservedEncoding (w : CmdWord)
  deriving DecidableEq, Repr

/-- A generator with the drawn registers and its output ASSERTED (R23, R141). -/
def PulseGen.afterReset (period duty pos : Word) : PulseGen where
  period := period
  duty := duty
  pos := pos
  out := true

/-- The machine right after reset (R23, R140): the three outputs ASSERTED. Every other register, both flags and `rsp` are
unspecified there; the values here are `Config.powerOnDraw`'s (DESIGN CHOICE, log entry 2). No event has been presented. -/
def State.reset : State where
  ms :=
    { period := Config.powerOnDraw.msPeriod
      pos := Config.powerOnDraw.msPos
      resetB := Config.powerOnDraw.resetB
      resetC := Config.powerOnDraw.resetC }
  pgA := PulseGen.afterReset Config.powerOnDraw.periodA Config.powerOnDraw.dutyA Config.powerOnDraw.posA
  pgB := PulseGen.afterReset Config.powerOnDraw.periodB Config.powerOnDraw.dutyB Config.powerOnDraw.posB
  pgC := PulseGen.afterReset Config.powerOnDraw.periodC Config.powerOnDraw.dutyC Config.powerOnDraw.posC
  rsp := Config.powerOnDraw.rsp
  violation := false
  resets := 0
  inputs := []

/-- The registers of a PulseGenerator, as R11 lists them. -/
inductive PgField where
  | period
  | duty
  | pos
  | out
  deriving DecidableEq, Repr

/-- The registers of R11. -/
inductive Reg where
  | msPeriod
  | msPos
  | msResetB
  | msResetC
  | pg (x : Gen) (f : PgField)
  deriving DecidableEq, Repr

/-- The two execution contexts that apply operations (R130). -/
inductive Context where
  | tick
  | host
  deriving DecidableEq, Repr

end Sys2Proof.Machine
end

