-- ==== Sys2Proof/Machine/Flags.lean ====
section
/-! DEFINITION. The two sticky resynchronise flags (R16) and the model's violation mark (U1). The block has no other flag. -/

namespace Sys2Proof.Machine

/-- Set `MS.resetB` (R83). -/
def Master.requestB (m : Master) : Master := { m with resetB := true }

/-- Set `MS.resetC` (R83). -/
def Master.requestC (m : Master) : Master := { m with resetC := true }

/-- Clear `MS.resetB`; only `applyPendingResets` does (R16, R87). -/
def Master.clearB (m : Master) : Master := { m with resetB := false }

/-- Clear `MS.resetC`; only `applyPendingResets` does (R16, R87). -/
def Master.clearC (m : Master) : Master := { m with resetC := false }

/-- Record `violation DegeneratePeriod` for a `PGSET` whose `ticks` is 0; a mark once set stays (R62, R121, U1). -/
def State.noteDegenerate (s : State) (ticks : Word) : State :=
  { s with violation := s.violation || ticks == 0 }

end Sys2Proof.Machine
end

