-- ==== Sys2Proof/Machine/Operands.lean ====
section
/-! DEFINITION. What each operand form puts into a register, and the comparisons of the counters (R22, R75, R94). -/

namespace Sys2Proof.Machine

/-- What `PGSET` stores in `period`: `(ticks - 1) mod 2^W` (R61); `ticks = 0` gives `MAXW` (R62). -/
def pgPeriodOf (ticks : Word) : Word := ticks - 1

/-- What `PGSET` stores in `duty`: `min(cap, ticks >> 1)`, unsigned (R61). -/
def pgDutyOf (ticks cap : Word) : Word := if cap ≤ ticks >>> 1 then cap else ticks >>> 1

/-- What `MSSET` stores: the operand less the configured bias, which the spec takes as 0 (R81, D4). -/
def msPeriodOf (bias ticks : Word) : Word := ticks - bias

/-- `pos + 1` modulo `2^W` (R75, R94). -/
def advance (pos : Word) : Word := pos + 1

/-- "exceeds": the unsigned, strict comparison (R94). -/
def exceeds (pos period : Word) : Bool := decide (period < pos)

end Sys2Proof.Machine
end

