-- ==== Sys2Proof/Machine/Ops.lean ====
section
/-! DEFINITION. The operations the meanings share: register access (R11), the operations of a PulseGenerator (R61 to R69), those
of the MasterScheduler (R81 to R88), and what a `RESET` does (R23, R140). -/

namespace Sys2Proof.Machine

/-! Register access -/

/-- Generator `x`. -/
def State.pg (s : State) : Gen → PulseGen
  | .A => s.pgA
  | .B => s.pgB
  | .C => s.pgC

/-- Generator `x` replaced. -/
def State.setPg (s : State) : Gen → PulseGen → State
  | .A, g => { s with pgA := g }
  | .B, g => { s with pgB := g }
  | .C, g => { s with pgC := g }

/-- A register of a generator as an unsigned integer. -/
def PulseGen.read (g : PulseGen) : PgField → Nat
  | .period => g.period.toNat
  | .duty => g.duty.toNat
  | .pos => g.pos.toNat
  | .out => g.out.toNat

/-- The generic register read `x[i]` of R9, by name: the value as an unsigned integer. -/
def State.read (s : State) : Reg → Nat
  | .msPeriod => s.ms.period.toNat
  | .msPos => s.ms.pos.toNat
  | .msResetB => s.ms.resetB.toNat
  | .msResetC => s.ms.resetC.toNat
  | .pg x f => (s.pg x).read f

/-- The place of a register among its generator's four (R11). -/
def PgField.offset : PgField → Nat
  | .period => 0
  | .duty => 1
  | .pos => 2
  | .out => 3

/-- The first reference number of a generator (R11). -/
def genBase : Gen → Nat
  | .A => 4
  | .B => 8
  | .C => 12

/-- The reference number of a register (R11, D24). -/
def Reg.number : Reg → Nat
  | .msPeriod => 0
  | .msPos => 1
  | .msResetB => 2
  | .msResetC => 3
  | .pg x f => genBase x + f.offset

/-- The width of a register in bits (R11). -/
def Reg.width : Reg → Nat
  | .msPeriod => 16
  | .msPos => 16
  | .msResetB => 1
  | .msResetC => 1
  | .pg _ .period => 16
  | .pg _ .duty => 16
  | .pg _ .pos => 16
  | .pg _ .out => 1

/-- The sixteen registers in the order of R11. -/
def Reg.all : List Reg :=
  [.msPeriod, .msPos, .msResetB, .msResetC,
   .pg .A .period, .pg .A .duty, .pg .A .pos, .pg .A .out,
   .pg .B .period, .pg .B .duty, .pg .B .pos, .pg .B .out,
   .pg .C .period, .pg .C .duty, .pg .C .pos, .pg .C .out]

/-- Ownership of state by context (R17): which context may write which register. -/
def Context.mayWrite : Context → Reg → Bool
  | .host, .msPeriod => true
  | .host, .msPos => false
  | .host, .msResetB => true
  | .host, .msResetC => true
  | .host, .pg _ _ => true
  | .tick, .msPeriod => false
  | .tick, .msPos => true
  | .tick, .msResetB => true
  | .tick, .msResetC => true
  | .tick, .pg _ .period => false
  | .tick, .pg _ .duty => false
  | .tick, .pg _ .pos => true
  | .tick, .pg _ .out => true

/-- The context that performs an instruction (R130): the tick context performs `TICK`, the host context the commands. -/
def contextOf : Instr → Context
  | .tick => .tick
  | .msset _ => .host
  | .pgsetA _ _ => .host
  | .pgsetB _ _ => .host
  | .pgsetC _ _ => .host
  | .resyncB => .host
  | .resyncC => .host
  | .pgrstA => .host
  | .pgrstB => .host
  | .pgrstC => .host
  | .pgtogA => .host
  | .pgtogB => .host
  | .pgtogC => .host
  | .pgqryA => .host
  | .pgqryB => .host
  | .pgqryC => .host

/-! The output ports -/

/-- The port `out_x`: 1 is ASSERTED (R13, R19). -/
def State.outPort (s : State) (x : Gen) : Bool := (s.pg x).out

/-- What is observable at an event boundary: (`out_A`, `out_B`, `out_C`) (R25). -/
def State.observe (s : State) : Bool × Bool × Bool := (s.outPort .A, s.outPort .B, s.outPort .C)

/-! Operations of a PulseGenerator -/

/-- `setPeriod(ticks, maxDutyTicks)` (R61): both registers in one atomic step (R33), and nothing else. -/
def PulseGen.setPeriod (g : PulseGen) (ticks cap : Word) : PulseGen :=
  { g with period := pgPeriodOf ticks, duty := pgDutyOf ticks cap }

/-- `PGresetPhase(x)` (R64): `pos` to the current `period`, the output ASSERTED. -/
def PulseGen.resetPhase (g : PulseGen) : PulseGen := { g with pos := g.period, out := true }

/-- The output after the duty check of `PGclock` at the new `pos` (R66). -/
def PulseGen.outAtDuty (g : PulseGen) (pos : Word) : Bool := if pos = g.duty then false else g.out

/-- `wrapped`: the call of `PGclock` is a cycle start, the new `pos` exceeding `period` (R66). -/
def PulseGen.wraps (g : PulseGen) : Bool := exceeds (advance g.pos) g.period

/-- `PGclock(x)` (R66): advance, duty check, then wrap check, so that "on" wins (R67). -/
def PulseGen.clock (g : PulseGen) : PulseGen :=
  if g.wraps then { g with pos := 0, out := true }
  else { g with pos := advance g.pos, out := g.outAtDuty (advance g.pos) }

/-- `toggle()` (R68): `out <- 1 - out`. -/
def PulseGen.toggle (g : PulseGen) : PulseGen := { g with out := !g.out }

/-- `isDeasserted()` (R69): `1 - out`. -/
def PulseGen.isDeasserted (g : PulseGen) : Bool := !g.out

/-- `PGSET.x` on the machine, with the violation mark of R62. -/
def State.setPeriod (s : State) (x : Gen) (ticks cap : Word) : State :=
  (s.setPg x ((s.pg x).setPeriod ticks cap)).noteDegenerate ticks

/-- `PGresetPhase(x)` on the machine (R64). -/
def State.resetPhase (s : State) (x : Gen) : State := s.setPg x (s.pg x).resetPhase

/-- `PGclock(x)` on the machine (R66); whether it was a cycle start is `(s.pg x).wraps`. -/
def State.clockPg (s : State) (x : Gen) : State := s.setPg x (s.pg x).clock

/-- `PGTOG.x` on the machine (R68). -/
def State.toggle (s : State) (x : Gen) : State := s.setPg x (s.pg x).toggle

/-- `PGQRY.x` on the machine (R43, R69): the answer goes to `rsp`. -/
def State.query (s : State) (x : Gen) : State := { s with rsp := (s.pg x).isDeasserted }

/-! Operations of the MasterScheduler -/

/-- `MasterScheduler.setPeriod(ticks)` (R81). -/
def State.setMasterPeriod (s : State) (bias ticks : Word) : State :=
  { s with ms := { s.ms with period := msPeriodOf bias ticks } }

/-- The half of `applyPendingResets` for B (R87). -/
def State.applyResetB (s : State) : State :=
  if s.ms.resetB then { s.resetPhase .B with ms := s.ms.clearB } else s

/-- The half of `applyPendingResets` for C (R87). -/
def State.applyResetC (s : State) : State :=
  if s.ms.resetC then { s.resetPhase .C with ms := s.ms.clearC } else s

/-- `applyPendingResets()` (R87). -/
def State.applyPendingResets (s : State) : State := s.applyResetB.applyResetC

/-- The `TICK` is a master wrap: the incremented `MS.pos` exceeds `MS.period` (R85). -/
def Master.wraps (m : Master) : Bool := exceeds (advance m.pos) m.period

/-- The clocks of a master wrap, A, then B, then C, with the resync application at A's cycle start where `point` puts it
(R85, R86, R88; D6). -/
def State.subStep (s : State) : ResyncPoint → State
  | .afterA =>
    let a := s.clockPg .A
    let r := if s.pgA.wraps then a.applyPendingResets else a
    (r.clockPg .B).clockPg .C
  | .afterC =>
    let c := ((s.clockPg .A).clockPg .B).clockPg .C
    if s.pgA.wraps then c.applyPendingResets else c

/-- `MasterScheduler.clock()` (R85), one atomic event (R33). -/
def State.clockMaster (s : State) (point : ResyncPoint) : State :=
  if s.ms.wraps then State.subStep { s with ms := { s.ms with pos := 0 } } point
  else { s with ms := { s.ms with pos := advance s.ms.pos } }

/-! Reset -/

/-- What a `RESET` that draws `d` leaves (R23, R140): the outputs ASSERTED, everything else as drawn. The violation mark and
the events still to come are not state of the block and stay. -/
def State.applyReset (s : State) (d : ResetDraw) : State where
  ms := { period := d.msPeriod, pos := d.msPos, resetB := d.resetB, resetC := d.resetC }
  pgA := PulseGen.afterReset d.periodA d.dutyA d.posA
  pgB := PulseGen.afterReset d.periodB d.dutyB d.posB
  pgC := PulseGen.afterReset d.periodC d.dutyC d.posC
  rsp := d.rsp
  violation := s.violation
  resets := s.resets + 1
  inputs := s.inputs

end Sys2Proof.Machine
end

