-- ==== Sys2Proof/Machine/MasterScheduler.lean ====
section
/-! DEFINITION. The meanings of the MasterScheduler operations: `MSSET`, `RESYNC.B`, `RESYNC.C`, `TICK`. -/

namespace Sys2Proof.Machine

/-- `MSSET ticks` (R81). -/
def execMsset (ticks : Word) (s : State) : Host.Outcome State Fault Refusal :=
  .next (s.setMasterPeriod Config.msPeriodBias ticks)

/-- `RESYNC.B` (R83). -/
def execResyncB (s : State) : Host.Outcome State Fault Refusal := .next { s with ms := s.ms.requestB }

/-- `RESYNC.C` (R83). -/
def execResyncC (s : State) : Host.Outcome State Fault Refusal := .next { s with ms := s.ms.requestC }

/-- `TICK` (R85). -/
def execTick (s : State) : Host.Outcome State Fault Refusal := .next (s.clockMaster Config.resyncPoint)

end Sys2Proof.Machine
end

