-- ==== Sys2Proof/Machine/PulseGenerator.lean ====
section
/-! DEFINITION. The meanings of the PulseGenerator commands: `PGSET.x`, `PGRST.x`, `PGTOG.x`, `PGQRY.x`. -/

namespace Sys2Proof.Machine

/-- `PGSET.A` (R61, R62). -/
def execPgsetA (ticks cap : Word) (s : State) : Host.Outcome State Fault Refusal := .next (s.setPeriod .A ticks cap)

/-- `PGSET.B` (R61, R62). -/
def execPgsetB (ticks cap : Word) (s : State) : Host.Outcome State Fault Refusal := .next (s.setPeriod .B ticks cap)

/-- `PGSET.C` (R61, R62). -/
def execPgsetC (ticks cap : Word) (s : State) : Host.Outcome State Fault Refusal := .next (s.setPeriod .C ticks cap)

/-- `PGRST.A` (R65). -/
def execPgrstA (s : State) : Host.Outcome State Fault Refusal := .next (s.resetPhase .A)

/-- `PGRST.B` (R65). -/
def execPgrstB (s : State) : Host.Outcome State Fault Refusal := .next (s.resetPhase .B)

/-- `PGRST.C` (R65). -/
def execPgrstC (s : State) : Host.Outcome State Fault Refusal := .next (s.resetPhase .C)

/-- `PGTOG.A` (R68). -/
def execPgtogA (s : State) : Host.Outcome State Fault Refusal := .next (s.toggle .A)

/-- `PGTOG.B` (R68). -/
def execPgtogB (s : State) : Host.Outcome State Fault Refusal := .next (s.toggle .B)

/-- `PGTOG.C` (R68). -/
def execPgtogC (s : State) : Host.Outcome State Fault Refusal := .next (s.toggle .C)

/-- `PGQRY.A` (R69). -/
def execPgqryA (s : State) : Host.Outcome State Fault Refusal := .next (s.query .A)

/-- `PGQRY.B` (R69). -/
def execPgqryB (s : State) : Host.Outcome State Fault Refusal := .next (s.query .B)

/-- `PGQRY.C` (R69). -/
def execPgqryC (s : State) : Host.Outcome State Fault Refusal := .next (s.query .C)

end Sys2Proof.Machine
end

