-- ==== Sys2Proof/Machine/Dispatch.lean ====
section
/-! DEFINITION. The meaning of every instruction, one arm per row of spec/opcode_table.json. -/

namespace Sys2Proof.Machine

def exec (i : Instr) (s : State) : Host.Outcome State Fault Refusal :=
  match i with
  -- MasterScheduler (R81)
  | .msset ticks => Sys2Proof.Machine.execMsset ticks s
  -- PulseGenerator (R61)
  | .pgsetA ticks cap => Sys2Proof.Machine.execPgsetA ticks cap s
  | .pgsetB ticks cap => Sys2Proof.Machine.execPgsetB ticks cap s
  | .pgsetC ticks cap => Sys2Proof.Machine.execPgsetC ticks cap s
  -- MasterScheduler (R83)
  | .resyncB => Sys2Proof.Machine.execResyncB s
  | .resyncC => Sys2Proof.Machine.execResyncC s
  -- PulseGenerator (R65, R68, R69)
  | .pgrstA => Sys2Proof.Machine.execPgrstA s
  | .pgrstB => Sys2Proof.Machine.execPgrstB s
  | .pgrstC => Sys2Proof.Machine.execPgrstC s
  | .pgtogA => Sys2Proof.Machine.execPgtogA s
  | .pgtogB => Sys2Proof.Machine.execPgtogB s
  | .pgtogC => Sys2Proof.Machine.execPgtogC s
  | .pgqryA => Sys2Proof.Machine.execPgqryA s
  | .pgqryB => Sys2Proof.Machine.execPgqryB s
  | .pgqryC => Sys2Proof.Machine.execPgqryC s
  -- MasterScheduler (R85)
  | .tick => Sys2Proof.Machine.execTick s

end Sys2Proof.Machine
end

