-- ==== Sys2Proof/Machine/Events.lean ====
section
/-! DEFINITION. The ports: what each kind of event does (R3, R19, R130), and how a word of a trace stands for an event (R49). -/

namespace Sys2Proof.Machine

/-- A word on the command port (R19, R46): the command it decodes to, or a refusal for a reserved word (R48). -/
def applyCommand (w : CmdWord) (s : State) : Host.Outcome State Fault Refusal :=
  match decodeCommand w with
  | some i => exec i s
  | none => .refused (.reservedEncoding w)

/-- One event applied, atomically and to completion (R3, R33). A `RESET` draws afresh (R23, R142). -/
def applyEvent (e : Event) (s : State) : Host.Outcome State Fault Refusal :=
  match e with
  | .reset => .next (s.applyReset (Config.resetDraw s.resets))
  | .tick => exec .tick s
  | .cmd w => applyCommand w s

/-- The event a word of a trace stands for: `0x7000000000` is a pulse on the `tick` port, every other word is presented on
the command port (R49). -/
def eventOfWord (w : CmdWord) : Event := if w = 0x7000000000 then .tick else .cmd w

/-- The event by which an instruction reaches the block: `TICK` on the tick port, a command as its word on the command
port (R46, R49). -/
def eventOf (i : Instr) : Event := eventOfWord (encode i)

/-- Events put before those still to come, in order. -/
def State.present (s : State) (es : List Event) : State := { s with inputs := es ++ s.inputs }

/-- Take the next event of the run: the earliest still to come (R34). -/
def nextEvent (s : State) : Option (Event × State) :=
  match s.inputs with
  | [] => none
  | e :: rest => some (e, { s with inputs := rest })

end Sys2Proof.Machine
end

