-- ==== Sys2Proof/Machine/Step.lean ====
section
/-! DEFINITION. One step: the next event is taken and applied. With no event the block awaits one and nothing changes. -/

namespace Sys2Proof.Machine

/-- One step (R3, R14: "advancing" means consuming the next event). With no event to come the block awaits events and every
register and output holds (R142, R158, U13; log entry 5). -/
def step (s : State) : Host.Outcome State Fault Refusal :=
  match nextEvent s with
  | none => .next s
  | some (e, t) => applyEvent e t

/-- `s` with the table word of `nbits` bits presented as its next event: `TICK`'s trace word on the tick port, every other
word on the command port (R49; log entry 6). -/
def State.withFetchWord (s : State) (nbits w : Nat) : State := s.present [eventOfWord (tableWord nbits w)]

end Sys2Proof.Machine
end

