-- ==== Sys2Proof/Machine/HostSide.lean ====
section
/-! DEFINITION. The host's side of the interface: the RateController's control cycle (R100 to R109) and the pseudo-instructions
`TICK*n` and `BOOT` (R53, R146). None of it is state of the block (R24, R102): it says which commands a host issues. -/

namespace Sys2Proof.Machine

/-- The RateController's parameters, named and left open by the spec: a model takes them as arguments (R8, D22, U6).
Each table has `NIDX = 11` entries (R7). -/
structure RateParams where
  bMultipliers : Vector Nat 11
  cMultipliers : Vector Nat 11
  freqTicks : Nat
  freqMin : Nat
  freqSpan : Nat
  freqDutyNominal : Nat
  deriving DecidableEq, Repr

/-- The RateController's memory: the previously applied indices. It lives in the host, and its first value is unspecified
(R102, D23, U7): every statement is about every value. -/
structure HostMemory where
  bPrev : Nat
  cPrev : Nat
  deriving DecidableEq, Repr

/-- Why a control cycle is refused; the block itself checks nothing (R105). -/
inductive HostBreach where
  /-- `b` or `c` is outside `[0, 10]`: the table has no such entry (R105 (e)). Safe. -/
  | indexOutOfRange
  /-- `f = 0`: the quotient has no value (R105 (a), U5). Safe. -/
  | zeroFrequency
  /-- `masterTickPeriod = 0`: the duty cap would divide by zero (R105 (b), U5). Safe. -/
  | zeroMasterPeriod
  /-- An operand does not fit its field, so no command word carries it (R105 (d)). Safe. -/
  | operandTooWide
  deriving DecidableEq, Repr

/-- `masterTickPeriod = FREQ_TICKS / f`, truncating (R103, R104). -/
def RateParams.masterTickPeriod (p : RateParams) (f : Nat) : Nat := p.freqTicks / f

/-- `dutyCap = FREQ_DUTY_NOMINAL / masterTickPeriod`, truncating (R103, R104). -/
def RateParams.dutyCap (p : RateParams) (f : Nat) : Nat := p.freqDutyNominal / p.masterTickPeriod f

/-- Every entry of a table is a positive integer that fits the operand field (R8, R106). -/
def tableWf (v : Vector Nat 11) : Bool := v.toList.all (fun e => 1 ≤ e && e ≤ MAXW)

/-- The frequency constants meet R8 on the whole range `[FREQ_MIN, FREQ_MIN + FREQ_SPAN]`. The quotient falls and the cap rises
with `f`, so the two ends of the range decide. -/
def RateParams.rangeWf (p : RateParams) : Bool :=
  1 ≤ p.freqMin && p.freqMin + p.freqSpan ≤ p.freqTicks && p.masterTickPeriod p.freqMin ≤ MAXW
    && p.dutyCap (p.freqMin + p.freqSpan) ≤ MAXW

/-- The parameters are admissible (R8, R106): the unity entry `B_MULTIPLIERS[5]` is 48. -/
def RateParams.wf (p : RateParams) : Bool :=
  tableWf p.bMultipliers && tableWf p.cMultipliers && p.bMultipliers[5] == 48 && p.rangeWf

/-- `f` is a frequency the input mapping may deliver (R101). -/
def RateParams.inRange (p : RateParams) (f : Nat) : Bool := p.freqMin ≤ f && f ≤ p.freqMin + p.freqSpan

/-- Steps 2 and 3 of the control cycle: a resync request for each index that differs from the one remembered (R103). -/
def resyncRequests (h : HostMemory) (b c : Nat) : List Instr :=
  (if b = h.bPrev then [] else [.resyncB]) ++ (if c = h.cPrev then [] else [.resyncC])

/-- Step 5, the four pushes, issued on every control cycle (R103). -/
def pushes (period cap tb tc : Word) : List Instr :=
  [.msset period, .pgsetA Config.aBaseTicks cap, .pgsetB tb cap, .pgsetC tc cap]

/-- A host number as the operand of a command (R105 (d)). -/
def operandOf (n : Nat) : Word := BitVec.ofNat 16 n

/-- `CTRL_CYCLE b, c, f` (R103): the commands it expands to, in order, and the indices remembered afterwards. -/
def ctrlCycle (p : RateParams) (h : HostMemory) (b c f : Nat) : Except HostBreach (HostMemory × List Instr) :=
  match p.bMultipliers[b]?, p.cMultipliers[c]? with
  | some tb, some tc =>
    if f = 0 then .error .zeroFrequency
    else if p.masterTickPeriod f = 0 then .error .zeroMasterPeriod
    else if p.masterTickPeriod f ≤ MAXW ∧ p.dutyCap f ≤ MAXW ∧ tb ≤ MAXW ∧ tc ≤ MAXW then
      .ok (⟨b, c⟩, resyncRequests h b c ++
        pushes (operandOf (p.masterTickPeriod f)) (operandOf (p.dutyCap f)) (operandOf tb) (operandOf tc))
    else .error .operandTooWide
  | _, _ => .error .indexOutOfRange

/-- `BOOT tm, ta, tb, tc, cap` (R53, R146): each `PGRST` after the `PGSET` of its generator. -/
def bootCommands (tm ta tb tc cap : Word) : List Instr :=
  [.msset tm, .pgsetA ta cap, .pgsetB tb cap, .pgsetC tc cap, .pgrstA, .pgrstB, .pgrstC]

/-- `TICK*n` (R53). -/
def ticksOf (n : Nat) : List Instr := List.replicate n .tick

/-- The events of a list of instructions, in order. -/
def eventsOf (is : List Instr) : List Event := is.map eventOf

/-- `run` is an interleaving of the host's commands, in the order it issues them, with some number of ticks (R34, U8): a tick
may fall between any two of them. -/
def interleaves : List Event → List Event → Bool
  | [], [] => true
  | _ :: _, [] => false
  | host, .tick :: run => interleaves host run
  | h :: host, e :: run => h == e && interleaves host run
  | [], _ :: _ => false

end Sys2Proof.Machine
end

