-- ==== Sys2Proof/Machine/Listing.lean ====
section
/-! DEFINITION. The textual form of an event listing (R52) and its pseudo-instructions (R53): one line, as characters, to what
it stands for, and back. What R52 leaves open about spaces and digits is log entry 8. -/

namespace Sys2Proof.Machine

/-- A line of a listing. -/
inductive ListLine where
  | blank
  | reset
  | instr (i : Instr)
  | ticks (n : Nat)
  | ctrlCycle (b c f : Nat)
  | boot (tm ta tb tc cap : Word)
  deriving DecidableEq, Repr

/-- The mnemonic of an instruction (R52): that of its row in the opcode table. -/
def mnemonicOf : Instr → String
  | .msset _ => "MSSET"
  | .pgsetA _ _ => "PGSET.A"
  | .pgsetB _ _ => "PGSET.B"
  | .pgsetC _ _ => "PGSET.C"
  | .resyncB => "RESYNC.B"
  | .resyncC => "RESYNC.C"
  | .pgrstA => "PGRST.A"
  | .pgrstB => "PGRST.B"
  | .pgrstC => "PGRST.C"
  | .pgtogA => "PGTOG.A"
  | .pgtogB => "PGTOG.B"
  | .pgtogC => "PGTOG.C"
  | .pgqryA => "PGQRY.A"
  | .pgqryB => "PGQRY.B"
  | .pgqryC => "PGQRY.C"
  | .tick => "TICK"

/-! Numbers -/

/-- The value of a digit, decimal or hexadecimal, either case (R52; log entry 8). -/
def digitValue (c : Char) : Option Nat :=
  if 48 ≤ c.toNat ∧ c.toNat ≤ 57 then some (c.toNat - 48)
  else if 65 ≤ c.toNat ∧ c.toNat ≤ 70 then some (c.toNat - 55)
  else if 97 ≤ c.toNat ∧ c.toNat ≤ 102 then some (c.toNat - 87)
  else none

/-- Digits read from the left, `acc` being what stands before them. -/
def readDigits (base acc : Nat) : List Char → Option Nat
  | [] => some acc
  | c :: cs =>
    match digitValue c with
    | some d => if d < base then readDigits base (acc * base + d) cs else none
    | none => none

/-- An operand: decimal, or hexadecimal after `0x` (R52). -/
def readNumber : List Char → Option Nat
  | [] => none
  | '0' :: 'x' :: c :: cs => readDigits 16 0 (c :: cs)
  | c :: cs => readDigits 10 0 (c :: cs)

/-- The decimal digits of `n` in front of `tail`; `fuel` bounds the digits still to write. -/
def digitsOnto : Nat → Nat → List Char → List Char
  | 0, _, tail => tail
  | fuel + 1, n, tail =>
    if n < 10 then Char.ofNat (48 + n) :: tail
    else digitsOnto fuel (n / 10) (Char.ofNat (48 + n % 10) :: tail)

/-- A number in decimal. -/
def decimal (n : Nat) : List Char := digitsOnto (n + 1) n []

/-! Reading a line -/

/-- A space or a tab. -/
def isBlank (c : Char) : Bool := c == ' ' || c == '\t'

/-- The text without spaces at its ends. -/
def trim (cs : List Char) : List Char := ((cs.dropWhile isBlank).reverse.dropWhile isBlank).reverse

/-- The text up to the comment that a `;` starts (R52). -/
def withoutComment (cs : List Char) : List Char := cs.takeWhile (· != ';')

/-- The texts between commas; `cur` holds, reversed, what has been read of the present one. -/
def commaParts (cur : List Char) : List Char → List (List Char)
  | [] => [cur.reverse]
  | c :: cs => if c = ',' then cur.reverse :: commaParts [] cs else commaParts (c :: cur) cs

/-- Operands separated by commas (R52); no text, no operands. -/
def readOperands (cs : List Char) : Option (List Nat) :=
  match cs with
  | [] => some []
  | _ :: _ => (commaParts [] cs).mapM (fun part => readNumber (trim part))

/-- A number as an operand field: at most `MAXW` (R45). -/
def readWord (n : Nat) : Option Word := if n ≤ MAXW then some (BitVec.ofNat 16 n) else none

/-- The lines without operands, by name: `TICK`, the commands of format `N` (R44), and `RESET` (R146; log entry 8). -/
def plainLines : List ListLine :=
  [.reset, .instr .resyncB, .instr .resyncC, .instr .pgrstA, .instr .pgrstB, .instr .pgrstC, .instr .pgtogA, .instr .pgtogB,
   .instr .pgtogC, .instr .pgqryA, .instr .pgqryB, .instr .pgqryC, .instr .tick]

/-- The name a line begins with. -/
def nameOf : ListLine → List Char
  | .blank => []
  | .reset => "RESET".toList
  | .instr i => (mnemonicOf i).toList
  | .ticks n => "TICK*".toList ++ decimal n
  | .ctrlCycle _ _ _ => "CTRL_CYCLE".toList
  | .boot _ _ _ _ _ => "BOOT".toList

/-- `TICK*n` (R53): the count after the star. -/
def readTicks (name : List Char) : Option ListLine :=
  if name.take 5 = "TICK*".toList then (readNumber (name.drop 5)).map .ticks else none

/-- A line from its name and its operands (R52, R53). -/
def lineOf (name : List Char) : List Nat → Option ListLine
  | [] =>
    match plainLines.find? (fun l => nameOf l = name) with
    | some l => some l
    | none => readTicks name
  | [t] => if name = "MSSET".toList then (readWord t).map (fun t => .instr (.msset t)) else none
  | [t, c] =>
    match readWord t, readWord c with
    | some t, some c =>
      ([Gen.A, Gen.B, Gen.C].find? (fun x => nameOf (.instr (.pgset x t c)) = name)).map
        (fun x => .instr (.pgset x t c))
    | _, _ => none
  | [b, c, f] => if name = "CTRL_CYCLE".toList then some (.ctrlCycle b c f) else none
  | [tm, ta, tb, tc, cap] =>
    match readWord tm, readWord ta, readWord tb, readWord tc, readWord cap with
    | some tm, some ta, some tb, some tc, some cap =>
      if name = "BOOT".toList then some (.boot tm ta tb tc cap) else none
    | _, _, _, _, _ => none
  | _ => none

/-- One line of a listing (R52): a name, then the operands; an empty line or a comment stands for no event. -/
def readLine (cs : List Char) : Option ListLine :=
  match trim (withoutComment cs) with
  | [] => some .blank
  | c :: body =>
    match readOperands (trim ((c :: body).dropWhile (fun a => !isBlank a))) with
    | some ops => lineOf ((c :: body).takeWhile (fun a => !isBlank a)) ops
    | none => none

/-! Writing a line -/

/-- The operands of an instruction in the order R52 writes them. -/
def operandsOf : Instr → List Nat
  | .msset t => [t.toNat]
  | .pgsetA t c => [t.toNat, c.toNat]
  | .pgsetB t c => [t.toNat, c.toNat]
  | .pgsetC t c => [t.toNat, c.toNat]
  | .resyncB => []
  | .resyncC => []
  | .pgrstA => []
  | .pgrstB => []
  | .pgrstC => []
  | .pgtogA => []
  | .pgtogB => []
  | .pgtogC => []
  | .pgqryA => []
  | .pgqryB => []
  | .pgqryC => []
  | .tick => []

/-- The operands of a line. -/
def lineOperands : ListLine → List Nat
  | .blank => []
  | .reset => []
  | .instr i => operandsOf i
  | .ticks _ => []
  | .ctrlCycle b c f => [b, c, f]
  | .boot tm ta tb tc cap => [tm.toNat, ta.toNat, tb.toNat, tc.toNat, cap.toNat]

/-- Operands in decimal, separated by a comma and a space. -/
def writeOperands : List Nat → List Char
  | [] => []
  | [n] => decimal n
  | n :: m :: rest => decimal n ++ (',' :: ' ' :: writeOperands (m :: rest))

/-- A line as text (R52). -/
def writeLine (l : ListLine) : List Char :=
  match lineOperands l with
  | [] => nameOf l
  | n :: rest => nameOf l ++ (' ' :: writeOperands (n :: rest))

/-- The events a line stands for, and the host's memory after it (R53). -/
def expandLine (p : RateParams) (h : HostMemory) : ListLine → Except HostBreach (HostMemory × List Event)
  | .blank => .ok (h, [])
  | .reset => .ok (h, [.reset])
  | .instr i => .ok (h, [eventOf i])
  | .ticks n => .ok (h, eventsOf (ticksOf n))
  | .ctrlCycle b c f =>
    match ctrlCycle p h b c f with
    | .ok (h', is) => .ok (h', eventsOf is)
    | .error e => .error e
  | .boot tm ta tb tc cap => .ok (h, eventsOf (bootCommands tm ta tb tc cap))

end Sys2Proof.Machine
end

