-- ==== Sys2Proof/Machine/Observation.lean ====
section
/-! DEFINITION. What is observable of a run (R25): the output triple after each event, and `rsp` after each query. -/

namespace Sys2Proof.Machine

/-- One observation (R25): the three output lines, and the answer bit when the event was a `PGQRY`. -/
structure Observation where
  outs : Bool × Bool × Bool
  answer : Option Bool
  deriving DecidableEq, Repr

/-- The event is a `PGQRY` (R69). -/
def isQuery : Event → Bool
  | .reset => false
  | .tick => false
  | .cmd w => (decodeCommand w).any (fun i => decide (i = .pgqryA ∨ i = .pgqryB ∨ i = .pgqryC))

/-- What is seen at the event boundary after `e`. -/
def observeAfter (e : Event) (t : State) : Observation where
  outs := t.observe
  answer := if isQuery e then some t.rsp else none

/-- The observations of at most `k` events of a run, ending where the run stops or no event is left. -/
def observations : Nat → State → List Observation
  | 0, _ => []
  | k + 1, s =>
    match nextEvent s with
    | none => []
    | some (e, t) =>
      match applyEvent e t with
      | .next u => observeAfter e u :: observations k u
      | .fault _ => []
      | .refused _ => []

end Sys2Proof.Machine
end

