-- ==== Sys2Proof/Safety.lean ====
section
/-! DEFINITION. The terms claims are stated in: runs over events, the properties of a correctly driven block (R18, R88, R89), and
the invariants. -/

namespace Sys2Proof.Machine

/-- `k` steps, stopping where one stops: `Host.Core.run` of this machine (`runSteps_eq_core_run`). -/
def runSteps : Nat → State → Host.Outcome State Fault Refusal
  | 0, s => .next s
  | k + 1, s =>
    match step s with
    | .next t => runSteps k t
    | .fault r => .fault r
    | .refused r => .refused r

/-- The outcome of a run that applies the events `es` from `s`, one step each. -/
def runEvents (es : List Event) (s : State) : Host.Outcome State Fault Refusal :=
  runSteps es.length (s.present es)

/-- The outcome of `n` ticks. -/
def runTicks (n : Nat) (s : State) : Host.Outcome State Fault Refusal := runEvents (List.replicate n .tick) s

/-- No violation of the host's contract has been recorded (R121, U1). -/
def State.Clean (s : State) : Prop := s.violation = false

/-- Invariant (a) of R18: `duty <= period`. -/
def PulseGen.DutyFits (g : PulseGen) : Prop := g.duty ≤ g.period

/-- Invariant (b) of R18, with its proviso: `pos <= period < MAXW`. -/
def PulseGen.InCycle (g : PulseGen) : Prop := g.pos ≤ g.period ∧ g.period.toNat < MAXW

/-- Invariant (d) of R18, with its proviso: `MS.pos <= MS.period < MAXW`. -/
def Master.InCycle (m : Master) : Prop := m.pos ≤ m.period ∧ m.period.toNat < MAXW

/-- The freshly reset phase (R64, D25): `pos = 0`, `out = 1`. -/
def PulseGen.FreshlyReset (g : PulseGen) : Prop := g.pos = 0 ∧ g.out = true

/-- The generator gives a pulse in every cycle: `1 <= duty <= period < MAXW` (R74). -/
def PulseGen.Pulsing (g : PulseGen) : Prop := 1 ≤ g.duty.toNat ∧ g.duty ≤ g.period ∧ g.period.toNat < MAXW

/-- The pair (`period`, `duty`) is one that some `PGSET` stores (R21, R61). -/
def PulseGen.Writable (g : PulseGen) : Prop :=
  ∃ ticks cap : Word, g.period = pgPeriodOf ticks ∧ g.duty = pgDutyOf ticks cap

/-- The pair (`period`, `duty`) that a draw gives generator `x`. -/
def drawnPair (d : ResetDraw) : Gen → Word × Word
  | .A => (d.periodA, d.dutyA)
  | .B => (d.periodB, d.dutyB)
  | .C => (d.periodC, d.dutyC)

/-- The pair was drawn: by a `RESET`, or at power-on. -/
def PulseGen.Drawn (g : PulseGen) (x : Gen) : Prop :=
  (g.period, g.duty) = drawnPair Config.powerOnDraw x ∨ ∃ n, (g.period, g.duty) = drawnPair (Config.resetDraw n) x

/-- R21: each generator holds a pair that a `PGSET` can write, or still the pair it drew at reset. -/
def State.PairsAccountedFor (s : State) : Prop := ∀ x, (s.pg x).Writable ∨ (s.pg x).Drawn x

/-- The event is not a `RESET`. -/
def Event.isReset : Event → Bool
  | .reset => true
  | .tick => false
  | .cmd _ => false

/-- No `RESET` is among the events still to come, and every generator keeps invariant (a) of R18. -/
def State.DutiesFit (s : State) : Prop := (∀ e ∈ s.inputs, e.isReset = false) ∧ ∀ x, (s.pg x).DutyFits

/-- The event changes no period: a tick, or a command other than `MSSET` and `PGSET`. -/
def Event.keepsPeriods : Event → Bool
  | .reset => false
  | .tick => true
  | .cmd w => decide (opField w ≠ 1 ∧ opField w ≠ 2)

/-- The events still to come change no period, and all four counters are within their cycles (R18 (b), (d)). -/
def State.CountersInCycle (s : State) : Prop :=
  (∀ e ∈ s.inputs, e.keepsPeriods = true) ∧ s.ms.InCycle ∧ ∀ x, (s.pg x).InCycle

/-- The `TICK` in `s` is a master wrap in which generator A has its cycle start: the only place where pending
resynchronisations are applied (R88, R93). -/
def State.cycleStartOfA (s : State) : Bool := s.ms.wraps && s.pgA.wraps

/-- What of a state generator A's evolution depends on: the master's counter and A's own registers (R76). -/
def State.viewOfA (s : State) : Word × Word × PulseGen := (s.ms.period, s.ms.pos, s.pgA)

/-- `n` calls of `PGclock` on one generator. -/
def PulseGen.clocked : Nat → PulseGen → PulseGen
  | 0, g => g
  | n + 1, g => PulseGen.clocked n g.clock

/-- One operand per generator. -/
def perGen (a b c : Word) : Gen → Word
  | .A => a
  | .B => b
  | .C => c

/-- Generator `x` stands at a cycle start common to all, freshly reset, and pulses; the master is at 0 and nothing is
pending: the start of the steady waveform (R74, R147). -/
def State.Aligned (s : State) : Prop :=
  s.ms.pos = 0 ∧ s.ms.period.toNat < MAXW ∧ s.ms.resetB = false ∧ s.ms.resetC = false ∧
    ∀ x, (s.pg x).FreshlyReset ∧ (s.pg x).Pulsing

/-- Every register of R11 but those listed holds what it held. -/
def State.SameBut (s t : State) (written : List Reg) : Prop := ∀ r, r ∉ written → t.read r = s.read r

/-- What is not a register of R11 holds what it held: `rsp`, the violation mark, the draws and the events still to come. -/
def State.SameRest (s t : State) : Prop :=
  t.rsp = s.rsp ∧ t.violation = s.violation ∧ t.resets = s.resets ∧ t.inputs = s.inputs

/-- The resynchronise flag of a generator; A has none (R16). -/
def Master.pending (m : Master) : Gen → Bool
  | .A => false
  | .B => m.resetB
  | .C => m.resetC

/-! The pseudocode of the rules, read as the spec writes it: assignments in order over registers that hold unsigned integers
(R9), each sum reduced modulo `2^W`. Claims hold the machine against it. -/

/-- The contents of the registers of R11. -/
abbrev Store := Reg → Nat

/-- `r <- v`. -/
def Store.assign (m : Store) (r : Reg) (v : Nat) : Store := fun q => if q = r then v else m q

/-- `PGresetPhase(x)` (R64). -/
def specResetPhase (x : Gen) (m : Store) : Store :=
  (m.assign (.pg x .pos) (m (.pg x .period))).assign (.pg x .out) 1

/-- `PGclock(x)` up to its duty check (R66). -/
def specAdvance (x : Gen) (m : Store) : Store :=
  let m1 := m.assign (.pg x .pos) ((m (.pg x .pos) + 1) % 2 ^ 16)
  if m1 (.pg x .pos) = m1 (.pg x .duty) then m1.assign (.pg x .out) 0 else m1

/-- The value `PGclock(x)` returns: `wrapped` (R66). -/
def specWrapped (x : Gen) (m : Store) : Bool :=
  decide (specAdvance x m (.pg x .pos) > specAdvance x m (.pg x .period))

/-- `PGclock(x)` (R66). -/
def specClock (x : Gen) (m : Store) : Store :=
  if specWrapped x m then ((specAdvance x m).assign (.pg x .pos) 0).assign (.pg x .out) 1 else specAdvance x m

/-- `applyPendingResets()` (R87). -/
def specApplyPending (m : Store) : Store :=
  let m1 := if m .msResetB = 1 then (specResetPhase .B m).assign .msResetB 0 else m
  if m1 .msResetC = 1 then (specResetPhase .C m1).assign .msResetC 0 else m1

/-- `TICK` (R85). -/
def specTick (m : Store) : Store :=
  let m1 := m.assign .msPos ((m .msPos + 1) % 2 ^ 16)
  if m1 .msPos > m1 .msPeriod then
    let m2 := m1.assign .msPos 0
    let m3 := specClock .A m2
    let m4 := if specWrapped .A m2 then specApplyPending m3 else m3
    specClock .C (specClock .B m4)
  else m1

/-- `PGSET.x` (R61). -/
def specSetPeriod (x : Gen) (t c : Word) (m : Store) : Store :=
  (m.assign (.pg x .period) ((t.toNat + (2 ^ 16 - 1)) % 2 ^ 16)).assign (.pg x .duty) (min c.toNat (t.toNat / 2))

/-- The register effect of every operation (R61, R65, R68, R69, R81, R83, R85). -/
def specEffect : Instr → Store → Store
  | .msset t, m => m.assign .msPeriod t.toNat
  | .pgsetA t c, m => specSetPeriod .A t c m
  | .pgsetB t c, m => specSetPeriod .B t c m
  | .pgsetC t c, m => specSetPeriod .C t c m
  | .resyncB, m => m.assign .msResetB 1
  | .resyncC, m => m.assign .msResetC 1
  | .pgrstA, m => specResetPhase .A m
  | .pgrstB, m => specResetPhase .B m
  | .pgrstC, m => specResetPhase .C m
  | .pgtogA, m => m.assign (.pg .A .out) (1 - m (.pg .A .out))
  | .pgtogB, m => m.assign (.pg .B .out) (1 - m (.pg .B .out))
  | .pgtogC, m => m.assign (.pg .C .out) (1 - m (.pg .C .out))
  | .pgqryA, m => m
  | .pgqryB, m => m
  | .pgqryC, m => m
  | .tick, m => specTick m

/-- `rsp` after every operation (R43, R69). -/
def specRsp : Instr → Store → Nat → Nat
  | .pgqryA, m, _ => 1 - m (.pg .A .out)
  | .pgqryB, m, _ => 1 - m (.pg .B .out)
  | .pgqryC, m, _ => 1 - m (.pg .C .out)
  | .msset _, _, r => r
  | .pgsetA _ _, _, r => r
  | .pgsetB _ _, _, r => r
  | .pgsetC _ _, _, r => r
  | .resyncB, _, r => r
  | .resyncC, _, r => r
  | .pgrstA, _, r => r
  | .pgrstB, _, r => r
  | .pgrstC, _, r => r
  | .pgtogA, _, r => r
  | .pgtogB, _, r => r
  | .pgtogC, _, r => r
  | .tick, _, r => r

end Sys2Proof.Machine
end

