-- ==== Sys2Proof/Certificates/Slice0/Obligations.lean ====
section
/-! DEFINITION. The statements for the provers, in the order of OBLIGATIONS.json. -/

open Sys2Proof Sys2Proof.Machine

/-! Encoding -/

/-- 95_test_vectors.md V6: these words are these commands, and these words are reserved. -/
def Obligations.SpecWordsDecode : Prop :=
  decode 0x1000040000 = some (.msset 4) ∧ decode 0x10FFFF0000 = some (.msset 65535) ∧
  decode 0x2000300014 = some (.pgsetA 48 20) ∧ decode 0x2400300019 = some (.pgsetB 48 25) ∧
  decode 0x28FFFFFFFF = some (.pgsetC 65535 65535) ∧ decode 0x2000000005 = some (.pgsetA 0 5) ∧
  decode 0x3400000000 = some .resyncB ∧ decode 0x3800000000 = some .resyncC ∧
  decode 0x4000000000 = some .pgrstA ∧ decode 0x5400000000 = some .pgtogB ∧ decode 0x6800000000 = some .pgqryC ∧
  decode 0x7000000000 = some .tick ∧ decodeCommand 0x7000000000 = none ∧
  (∀ w ∈ [0x0000000000, 0x8000000000, 0xF000000000, 0x3000000000, 0x2C00300014, 0x2100300014, 0x1400040000,
      0x1000040001, 0x4400000001, 0x5000010000, 0x6C00000000, 0x7400000000], decode w = none)

/-- R49: the complete list of legal words, and on the command port a word with `op = 0x7` is reserved, so that nothing the
command port applies makes the master advance. -/
def Obligations.LegalWordsAreTheListedOnes : Prop :=
  (∀ t : Word, decodeCommand ((0x10 : BitVec 8) ++ t ++ (0 : BitVec 16)) = some (.msset t)) ∧
  (∀ t c : Word, decodeCommand ((0x20 : BitVec 8) ++ t ++ c) = some (.pgsetA t c)) ∧
  (∀ t c : Word, decodeCommand ((0x24 : BitVec 8) ++ t ++ c) = some (.pgsetB t c)) ∧
  (∀ t c : Word, decodeCommand ((0x28 : BitVec 8) ++ t ++ c) = some (.pgsetC t c)) ∧
  decodeCommand 0x3400000000 = some .resyncB ∧ decodeCommand 0x3800000000 = some .resyncC ∧
  decodeCommand 0x4000000000 = some .pgrstA ∧ decodeCommand 0x4400000000 = some .pgrstB ∧
  decodeCommand 0x4800000000 = some .pgrstC ∧
  decodeCommand 0x5000000000 = some .pgtogA ∧ decodeCommand 0x5400000000 = some .pgtogB ∧
  decodeCommand 0x5800000000 = some .pgtogC ∧
  decodeCommand 0x6000000000 = some .pgqryA ∧ decodeCommand 0x6400000000 = some .pgqryB ∧
  decodeCommand 0x6800000000 = some .pgqryC ∧
  decode 0x7000000000 = some .tick ∧
  (∀ w : CmdWord, w.toNat / 2 ^ 36 = 7 → decodeCommand w = none) ∧
  (∀ (w : CmdWord) (i : Instr), decodeCommand w = some i → decode w = some i ∧ i ≠ .tick) ∧
  (∀ w : CmdWord, decode w ≠ none →
    (∃ t : Word, w = (0x10 : BitVec 8) ++ t ++ (0 : BitVec 16)) ∨
    (∃ t c : Word, w = (0x20 : BitVec 8) ++ t ++ c ∨ w = (0x24 : BitVec 8) ++ t ++ c ∨ w = (0x28 : BitVec 8) ++ t ++ c) ∨
    w ∈ [(0x3400000000 : CmdWord), 0x3800000000, 0x4000000000, 0x4400000000, 0x4800000000, 0x5000000000, 0x5400000000,
      0x5800000000, 0x6000000000, 0x6400000000, 0x6800000000, 0x7000000000])

/-- R50: decoding gives an instruction exactly on that instruction's own word. Every operand at every value. -/
def Obligations.DecodeInvertsEncode : Prop :=
  ∀ (w : CmdWord) (i : Instr), decode w = some i ↔ encode i = w

/-- R47: a word is reserved exactly when one of (a) to (f) holds, and on the command port also (g); and exactly when no row
of the opcode table covers it. -/
def Obligations.ReservedWordsAreClassesAToG : Prop :=
  ∀ w : CmdWord,
    let op := w.toNat / 2 ^ 36
    let sel := w.toNat / 2 ^ 34 % 4
    let rsv := w.toNat / 2 ^ 32 % 4
    let ticks := w.toNat / 2 ^ 16 % 2 ^ 16
    let cap := w.toNat % 2 ^ 16
    (decode w = none ↔
      (op = 0 ∨ 8 ≤ op) ∨ sel = 3 ∨ rsv ≠ 0 ∨ (op = 3 ∧ sel = 0) ∨ ((op = 1 ∨ op = 7) ∧ sel ≠ 0) ∨
        (cap ≠ 0 ∧ op ∈ [1, 3, 4, 5, 6, 7]) ∨ (ticks ≠ 0 ∧ op ∈ [3, 4, 5, 6, 7])) ∧
    (decodeCommand w = none ↔ decode w = none ∨ op = 7) ∧
    (decode w = none ↔ ∀ r ∈ opcodeTable, r.covers w = false)

/-- R48, U3: a reserved word on the command port is refused, and `PGSET.x` with `ticks = 0` is a legal word. R48 leaves the
effect of a reserved word undefined; that the step ends in `reservedEncoding` is this model's own choice (log entry 13). -/
def Obligations.ReservedCommandIsRefused : Prop :=
  (∀ (s : State) (w : CmdWord) (rest : List Event), s.inputs = .cmd w :: rest → decodeCommand w = none →
    step s = .refused (.reservedEncoding w)) ∧
  (∀ (x : Gen) (c : Word), decodeCommand (encode (Instr.pgset x 0 c)) = some (Instr.pgset x 0 c))

/-! Steps -/

/-- A step runs the decoded instruction: a word on the command port, a pulse on the tick port, and a table word presented by
`withFetchWord`. The step takes the event away first and adds nothing else. -/
def Obligations.StepRunsDecodedInstruction : Prop :=
  (∀ (s : State) (w : CmdWord) (i : Instr) (rest : List Event), s.inputs = .cmd w :: rest → decodeCommand w = some i →
    step s = exec i { s with inputs := rest }) ∧
  (∀ (s : State) (rest : List Event), s.inputs = .tick :: rest → step s = exec .tick { s with inputs := rest }) ∧
  (∀ (s : State) (nbits w : Nat) (i : Instr), decodeTableWord nbits w = some i → step (s.withFetchWord nbits w) = exec i s) ∧
  (∀ (s : State) (i : Instr), step (s.present [eventOf i]) = exec i s)

/-- R3: the state changes only when an event is applied; with none to come the block awaits one (log entry 5). -/
def Obligations.NoEventNoChange : Prop :=
  ∀ s : State, s.inputs = [] → step s = .next s

/-- R120: every operation is total: for every state and every legal command word, and for every tick and every reset, the
step gives a next state; and no step ever faults. -/
def Obligations.EveryEventCompletes : Prop :=
  (∀ (s : State) (w : CmdWord) (rest : List Event), s.inputs = .cmd w :: rest → commandWordWf w = true →
    ∃ t, step s = .next t) ∧
  (∀ (s : State) (rest : List Event), s.inputs = .tick :: rest ∨ s.inputs = .reset :: rest → ∃ t, step s = .next t) ∧
  (∀ (s : State) (r : Fault), step s ≠ .fault r) ∧
  (∀ (i : Instr) (s : State), ∃ t, exec i s = .next t)

/-! Reset -/

/-- R141: the outputs are ASSERTED after a `RESET` event in any state, and in the machine's reset state. -/
def Obligations.ResetAssertsOutputs : Prop :=
  (∀ (s : State) (rest : List Event), s.inputs = .reset :: rest →
    ∃ t, step s = .next t ∧ ∀ x, t.outPort x = true) ∧
  ∀ x, State.reset.outPort x = true

/-- R23, R140: what a `RESET` leaves in every register R23 calls unspecified is one value per register, fixed at that
`RESET` (the draw of its number); the events still to come stay. The mark of U1 stays too (this model's choice, log entry 4). -/
def Obligations.ResetDrawsEveryOtherRegister : Prop :=
  ∀ (s : State) (rest : List Event), s.inputs = .reset :: rest →
    ∃ t, step s = .next t ∧
      (let d := Config.resetDraw s.resets
       t.ms = ⟨d.msPeriod, d.msPos, d.resetB, d.resetC⟩ ∧
       t.pgA = ⟨d.periodA, d.dutyA, d.posA, true⟩ ∧ t.pgB = ⟨d.periodB, d.dutyB, d.posB, true⟩ ∧
       t.pgC = ⟨d.periodC, d.dutyC, d.posC, true⟩ ∧ t.rsp = d.rsp) ∧
      t.resets = s.resets + 1 ∧ t.violation = s.violation ∧ t.inputs = rest

/-- 95_test_vectors.md V7.1: a query right after a `RESET` answers 0, whatever the draw; and so it does in the reset state. -/
def Obligations.QueryAfterResetAnswersAsserted : Prop :=
  (∀ (s : State) (x : Gen), ∃ t, runEvents [.reset, eventOf (Instr.pgqry x)] s = .next t ∧ t.rsp = false) ∧
  ∀ x : Gen, ∃ t, exec (Instr.pgqry x) State.reset = .next t ∧ t.rsp = false

/-! The commands: result, frame and completion -/

/-- R81: `MSSET ticks` stores the operand unchanged in `MS.period` and writes nothing else. -/
def Obligations.MssetStoresOperandUnchanged : Prop :=
  ∀ (ticks : Word) (s : State),
    decodeCommand ((0x10 : BitVec 8) ++ ticks ++ (0 : BitVec 16)) = some (.msset ticks) ∧
    ∃ t, exec (.msset ticks) s = .next t ∧ t.read .msPeriod = ticks.toNat ∧
      s.SameBut t [.msPeriod] ∧ s.SameRest t

/-- R61: `PGSET.x ticks, cap` sets `period` and `duty` of `x` together and writes no other register and not `rsp`; for every
`ticks >= 1`, `duty <= ticks >> 1 <= period`. For such `ticks` no violation is recorded. -/
def Obligations.PgsetSetsPeriodAndDuty : Prop :=
  ∀ (x : Gen) (ticks cap : Word) (s : State),
    ∃ t, exec (Instr.pgset x ticks cap) s = .next t ∧
      t.read (.pg x .period) = (ticks.toNat + (2 ^ 16 - 1)) % 2 ^ 16 ∧
      t.read (.pg x .duty) = min cap.toNat (ticks.toNat / 2) ∧
      s.SameBut t [.pg x .period, .pg x .duty] ∧ t.rsp = s.rsp ∧ t.resets = s.resets ∧ t.inputs = s.inputs ∧
      (1 ≤ ticks.toNat → t.read (.pg x .duty) ≤ ticks.toNat / 2 ∧ ticks.toNat / 2 ≤ t.read (.pg x .period) ∧
        t.violation = s.violation)

/-- R62, U1: `PGSET.x 0, cap` writes `period = MAXW` and `duty = 0`, and the model records the violation (log entry 4). -/
def Obligations.PgsetZeroIsDegenerate : Prop :=
  ∀ (x : Gen) (cap : Word) (s : State),
    ∃ t, exec (Instr.pgset x 0 cap) s = .next t ∧
      t.read (.pg x .period) = 65535 ∧ t.read (.pg x .duty) = 0 ∧ t.violation = true ∧
      s.SameBut t [.pg x .period, .pg x .duty] ∧ t.rsp = s.rsp

/-- R83: `RESYNC.B` and `RESYNC.C` set the flag named, never clear, and do nothing else; with the flag already set nothing
changes. -/
def Obligations.ResyncSetsOnlyItsFlag : Prop :=
  ∀ s : State,
    (∃ t, exec .resyncB s = .next t ∧ t.ms.resetB = true ∧ s.SameBut t [.msResetB] ∧ s.SameRest t ∧
      (s.ms.resetB = true → t = s)) ∧
    (∃ t, exec .resyncC s = .next t ∧ t.ms.resetC = true ∧ s.SameBut t [.msResetC] ∧ s.SameRest t ∧
      (s.ms.resetC = true → t = s))

/-- R64, R65: `PGRST.x` sets `pos` to the current `period` and asserts the output, and writes nothing else: no flag, no other
generator; applied twice it gives the same state as applied once. -/
def Obligations.PgrstForcesPhase : Prop :=
  ∀ (x : Gen) (s : State),
    ∃ t, exec (Instr.pgrst x) s = .next t ∧
      t.read (.pg x .pos) = s.read (.pg x .period) ∧ t.read (.pg x .out) = 1 ∧
      s.SameBut t [.pg x .pos, .pg x .out] ∧ s.SameRest t ∧ exec (Instr.pgrst x) t = .next t

/-- R68: `PGTOG.x` flips the output and writes nothing else; two of them restore the machine. -/
def Obligations.PgtogFlipsOutput : Prop :=
  ∀ (x : Gen) (s : State),
    ∃ t, exec (Instr.pgtog x) s = .next t ∧ t.read (.pg x .out) = 1 - s.read (.pg x .out) ∧
      s.SameBut t [.pg x .out] ∧ s.SameRest t ∧ exec (Instr.pgtog x) t = .next s

/-- R69: `PGQRY.x` puts `1 - PG[x].out` on `rsp` and changes no architectural state. -/
def Obligations.PgqryAnswersDeasserted : Prop :=
  ∀ (x : Gen) (s : State),
    ∃ t, exec (Instr.pgqry x) s = .next t ∧ t.rsp.toNat = 1 - s.read (.pg x .out) ∧
      s.SameBut t [] ∧ t.violation = s.violation ∧ t.resets = s.resets ∧ t.inputs = s.inputs

/-- R43: only `PGQRY.x` writes `rsp`: 1 if `x` is DEASSERTED and 0 if it is ASSERTED; every other command and every `TICK`
leaves it unchanged. -/
def Obligations.OnlyQueriesWriteRsp : Prop :=
  ∀ (i : Instr) (s t : State), exec i s = .next t →
    (∃ x, i = Instr.pgqry x ∧ t.rsp = !(s.outPort x)) ∨ ((∀ x, i ≠ Instr.pgqry x) ∧ t.rsp = s.rsp)

/-- R37: a query changes no architectural state and may be repeated freely; `PGTOG.x` twice restores the output; `RESYNC.x`,
`MSSET`, `PGSET.x` and `PGRST.x` are idempotent when repeated with no other event between. -/
def Obligations.RepeatedCommands : Prop :=
  (∀ (x : Gen) (s : State), ∃ t, exec (Instr.pgqry x) s = .next t ∧ s.SameBut t [] ∧ exec (Instr.pgqry x) t = .next t) ∧
  (∀ (x : Gen) (s : State), ∃ t, exec (Instr.pgtog x) s = .next t ∧ exec (Instr.pgtog x) t = .next s) ∧
  (∀ (i : Instr) (s : State),
    ((∃ v, i = .msset v) ∨ (∃ x u v, i = Instr.pgset x u v) ∨ i = .resyncB ∨ i = .resyncC ∨ (∃ x, i = Instr.pgrst x)) →
    ∃ t, exec i s = .next t ∧ exec i t = .next t)

/-! The tick -/

/-- R92: a `TICK` that is not a master wrap writes `MS.pos` and nothing else. -/
def Obligations.TickWithoutMasterWrap : Prop :=
  ∀ s : State, (s.read .msPos + 1) % 2 ^ 16 ≤ s.read .msPeriod →
    ∃ t, exec .tick s = .next t ∧ t.read .msPos = (s.read .msPos + 1) % 2 ^ 16 ∧
      s.SameBut t [.msPos] ∧ s.SameRest t

/-- R66, R67, R72: at a master wrap, a generator that is not phase-reset in it is clocked once: its `pos` is incremented
modulo `2^W`; if the new `pos` exceeds `period` it becomes 0 and the output 1, whatever `duty`; otherwise the output becomes
0 if the new `pos` equals `duty` and keeps its value if not. -/
def Obligations.MasterWrapClocksGenerator : Prop :=
  ∀ (s : State) (x : Gen), s.read .msPeriod < (s.read .msPos + 1) % 2 ^ 16 →
    (s.cycleStartOfA = false ∨ s.ms.pending x = false) →
    ∃ t, exec .tick s = .next t ∧ t.read .msPos = 0 ∧
      (let p := (s.read (.pg x .pos) + 1) % 2 ^ 16
       if p > s.read (.pg x .period) then t.read (.pg x .pos) = 0 ∧ t.read (.pg x .out) = 1
       else t.read (.pg x .pos) = p ∧ t.read (.pg x .out) = if p = s.read (.pg x .duty) then 0 else s.read (.pg x .out)) ∧
      t.read (.pg x .period) = s.read (.pg x .period) ∧ t.read (.pg x .duty) = s.read (.pg x .duty)

/-- R88: in a `TICK` in which A has its cycle start, a generator with a pending request ends the `TICK` at `pos = 0` with its
output 1 (for `period < MAXW`), as A does, and no request is left; in any other `TICK` every flag stays and no generator is
reset. -/
def Obligations.ResyncAppliedAtCycleStartOfA : Prop :=
  (∀ s : State, s.cycleStartOfA = true →
    ∃ t, exec .tick s = .next t ∧ t.ms.resetB = false ∧ t.ms.resetC = false ∧ t.pgA.FreshlyReset ∧
      ∀ x, s.ms.pending x = true → s.read (.pg x .period) < MAXW → (t.pg x).FreshlyReset) ∧
  (∀ s : State, s.cycleStartOfA = false →
    ∃ t, exec .tick s = .next t ∧ t.ms.resetB = s.ms.resetB ∧ t.ms.resetC = s.ms.resetC ∧
      ∀ x, t.pg x = s.pg x ∨ t.pg x = (s.pg x).clock)

/-- R85 with R64, R66, R87, and R61, R65, R68, R69, R81, R83: every operation answers a next state, and that state holds in
every register of R11, and in `rsp`, what the spec's pseudocode computes, its assignments run in the order written over
unsigned integers. -/
def Obligations.EveryOperationRefinesPseudocode : Prop :=
  ∀ (i : Instr) (s : State),
    ∃ t, exec i s = .next t ∧ (∀ r, t.read r = specEffect i s.read r) ∧ t.rsp.toNat = specRsp i s.read s.rsp.toNat ∧
      t.resets = s.resets ∧ t.inputs = s.inputs

/-! Ownership, isolation, and what no command can do -/

/-- R17: what each context may write. The host writes `MS.period` only by `MSSET`, sets flags and never clears one, writes a
pair only by `PGSET.x`, a `pos` only by `PGRST.x`, an output only by `PGTOG.x` and `PGRST.x`, and never `MS.pos`. The tick
context clears flags and never sets one, and writes no period and no duty. -/
def Obligations.OwnershipByContext : Prop :=
  (∀ (i : Instr) (s t : State), exec i s = .next t → ∀ r, (contextOf i).mayWrite r = false → t.read r = s.read r) ∧
  (∀ (i : Instr) (s t : State), exec i s = .next t → contextOf i = .host →
    t.ms.pos = s.ms.pos ∧ (s.ms.resetB = true → t.ms.resetB = true) ∧ (s.ms.resetC = true → t.ms.resetC = true) ∧
    (t.ms.period ≠ s.ms.period → ∃ v, i = .msset v) ∧
    (t.ms.resetB ≠ s.ms.resetB → i = .resyncB) ∧ (t.ms.resetC ≠ s.ms.resetC → i = .resyncC) ∧
    ∀ x, ((t.pg x).period ≠ (s.pg x).period ∨ (t.pg x).duty ≠ (s.pg x).duty → ∃ u v, i = Instr.pgset x u v) ∧
      ((t.pg x).pos ≠ (s.pg x).pos → i = Instr.pgrst x) ∧
      ((t.pg x).out ≠ (s.pg x).out → i = Instr.pgrst x ∨ i = Instr.pgtog x)) ∧
  (∀ s t : State, exec .tick s = .next t →
    t.ms.period = s.ms.period ∧ (t.ms.resetB = true → s.ms.resetB = true) ∧ (t.ms.resetC = true → s.ms.resetC = true) ∧
    ∀ x, (t.pg x).period = (s.pg x).period ∧ (t.pg x).duty = (s.pg x).duty)

/-- R36, R93: no request is lost. A pending request stays pending through every step but a `RESET` and the `TICK` that is a
master wrap with A's cycle start. -/
def Obligations.RequestsAreNeverLost : Prop :=
  ∀ (s t : State) (x : Gen), step s = .next t → s.ms.pending x = true →
    t.ms.pending x = true ∨ (∃ rest, s.inputs = .reset :: rest) ∨
      ((∃ rest, s.inputs = .tick :: rest) ∧ s.cycleStartOfA = true)

/-- R93: `PGRST.A` and `PGTOG.A` assert A's output without applying a pending request: B, C and the flags stay. -/
def Obligations.HostAssertionOfAAppliesNothing : Prop :=
  ∀ (s : State) (i : Instr), i = .pgrstA ∨ i = .pgtogA →
    ∃ t, exec i s = .next t ∧ t.pgB = s.pgB ∧ t.pgC = s.pgC ∧ t.ms = s.ms ∧ (s.pgA.out = false → t.pgA.out = true)

/-- R76: A's evolution reads nothing of B, of C, of the flags or of `rsp`. From two states that agree on the master's counter,
on A and on the number of the next draw, the same events give outcomes that agree in the same way: what a run refuses in one
it refuses in the other. The number of the next draw is this model's own (log entry 3). -/
def Obligations.GeneratorAIsIsolated : Prop :=
  ∀ (es : List Event) (s s' : State), s.viewOfA = s'.viewOfA → s.resets = s'.resets →
    match runEvents es s, runEvents es s' with
    | .next t, .next t' => t.viewOfA = t'.viewOfA ∧ t.resets = t'.resets
    | .refused r, .refused r' => r = r'
    | _, _ => False

/-- U1, R121: a violation is recorded by a `PGSET` with `ticks = 0` and by nothing else, and a mark once set stays, `RESET`
or not (the mark is this model's own, log entry 4). -/
def Obligations.ViolationMarkIsStickyAndExact : Prop :=
  ∀ s t : State, step s = .next t →
    (t.violation = true ↔
      s.violation = true ∨ ∃ x c rest, s.inputs = .cmd (encode (Instr.pgset x 0 c)) :: rest)

/-! Invariants -/

/-- R21: after any step from a state in which each generator holds a pair (`period`, `duty`) that a `PGSET` can write or that
it drew at a reset, each still does; so a pair that is neither never arises. -/
def Obligations.PairsStayAccountedFor : Prop :=
  ∀ s t : State, s.PairsAccountedFor → step s = .next t → t.PairsAccountedFor

/-- The reset state meets the invariant of `PairsStayAccountedFor`. -/
def Obligations.ResetPairsAreAccountedFor : Prop := State.reset.PairsAccountedFor

/-- R18 (a): with no `RESET` to come, `duty <= period` holds of every generator after a step if it did before, `PGSET.x 0`
included. -/
def Obligations.DutyStaysWithinPeriod : Prop :=
  ∀ s t : State, s.DutiesFit → step s = .next t → t.DutiesFit

/-- R18 (b), (d): while no period is changed, `pos <= period` holds of the master and of every generator after a step if it
did before. -/
def Obligations.CountersStayInCycle : Prop :=
  ∀ s t : State, s.CountersInCycle → step s = .next t → t.CountersInCycle

/-- R18 (b), R143: whatever the state, after a master wrap every generator has `pos <= period`. -/
def Obligations.MasterWrapRestoresPhases : Prop :=
  ∀ s : State, s.ms.wraps = true →
    ∃ t, exec .tick s = .next t ∧ t.ms.pos = 0 ∧ ∀ x, (t.pg x).pos ≤ (t.pg x).period

/-! Waveforms and counts of ticks -/

/-- R74: from the freshly reset phase with `1 <= duty <= period < MAXW`, after call `k` of `PGclock` `pos` is
`k mod (period + 1)` and the output is 1 exactly when that is below `duty`: high for `duty` sub-steps and low for
`ticks - duty` of every cycle. -/
def Obligations.SteadyWaveformOfAGenerator : Prop :=
  ∀ (g : PulseGen) (k : Nat), g.FreshlyReset → g.Pulsing →
    (PulseGen.clocked k g).pos.toNat = k % (g.period.toNat + 1) ∧
    (PulseGen.clocked k g).out = decide (k % (g.period.toNat + 1) < g.duty.toNat) ∧
    (PulseGen.clocked k g).period = g.period ∧ (PulseGen.clocked k g).duty = g.duty

/-- R74, R89: the whole machine from a common cycle start, in closed form. After `n` ticks the master is at
`n mod (MS.period + 1)`, and each generator has made `n / (MS.period + 1)` sub-steps of its waveform. -/
def Obligations.AlignedMachineInClosedForm : Prop :=
  ∀ (s : State) (n : Nat), s.Aligned →
    ∃ t, runTicks n s = .next t ∧ t.ms.period = s.ms.period ∧
      t.ms.pos.toNat = n % (s.ms.period.toNat + 1) ∧
      ∀ x, (t.pg x).period = (s.pg x).period ∧ (t.pg x).duty = (s.pg x).duty ∧
        (t.pg x).pos.toNat = n / (s.ms.period.toNat + 1) % ((s.pg x).period.toNat + 1) ∧
        t.outPort x = decide (n / (s.ms.period.toNat + 1) % ((s.pg x).period.toNat + 1) < (s.pg x).duty.toNat)

/-- R25, R74: what is observed of `n` ticks from a common cycle start: after tick `k + 1` each output line is high exactly
when its generator's sub-step number, modulo its cycle, is below its duty; no tick gives an answer bit. -/
def Obligations.TicksAreObservedInClosedForm : Prop :=
  ∀ (s : State) (n : Nat), s.Aligned →
    let high := fun (x : Gen) (k : Nat) =>
      decide (k / (s.ms.period.toNat + 1) % ((s.pg x).period.toNat + 1) < (s.pg x).duty.toNat)
    observations n (s.present (List.replicate n .tick)) =
      (List.range n).map (fun k => ⟨(high .A (k + 1), high .B (k + 1), high .C (k + 1)), none⟩)

/-- R89: with `MS.period = P < MAXW` and from `MS.pos <= P`, generators are clocked on exactly one tick out of every `P + 1`.
After `n` ticks `MS.pos` is `(MS.pos + n) mod (P + 1)`, and the next tick is a master wrap exactly when it takes that to 0. A
tick that is none writes `MS.pos` only; one that is clocks each generator once, a pending request at A's cycle start or not.
So A has been clocked `(MS.pos + n) / (P + 1)` times, and so have B and C when no request was pending. -/
def Obligations.MasterGating : Prop :=
  ∀ (s : State) (n : Nat), s.read .msPeriod < MAXW → s.read .msPos ≤ s.read .msPeriod →
    let wraps := (s.read .msPos + n) / (s.read .msPeriod + 1)
    ∃ t u, runTicks n s = .next t ∧ t.read .msPos = (s.read .msPos + n) % (s.read .msPeriod + 1) ∧
      t.ms.wraps = decide ((s.read .msPos + n + 1) % (s.read .msPeriod + 1) = 0) ∧
      exec .tick t = .next u ∧
      (t.ms.wraps = false → t.SameBut u [.msPos] ∧ t.SameRest u) ∧
      (t.ms.wraps = true → u.read .msPos = 0 ∧ ∀ x, u.pg x =
        (if t.cycleStartOfA = true ∧ t.ms.pending x = true then (t.pg x).resetPhase else t.pg x).clock) ∧
      t.pgA = PulseGen.clocked wraps s.pgA ∧
      (s.ms.resetB = false → t.pgB = PulseGen.clocked wraps s.pgB) ∧
      (s.ms.resetC = false → t.pgC = PulseGen.clocked wraps s.pgC)

/-- R90: from any state with `MS.period = P < MAXW` the first master wrap comes after at least 1 and at most `P + 2` ticks: it
is tick `n + 1` for some `n <= P + 1`, no earlier tick being one. If `MS.pos = MAXW` it comes on tick `P + 2`, and if
`P <= MS.pos < MAXW` on tick 1. If `MS.period = MAXW` no tick is ever a master wrap and `MS.pos` goes through all values. -/
def Obligations.FirstMasterWrapIsBounded : Prop :=
  (∀ s : State, s.read .msPeriod < MAXW →
    ∃ n, n ≤ s.read .msPeriod + 1 ∧
      (s.read .msPos = MAXW → n = s.read .msPeriod + 1) ∧
      (s.read .msPeriod ≤ s.read .msPos → s.read .msPos < MAXW → n = 0) ∧
      (∃ t, runTicks n s = .next t ∧ t.ms.wraps = true) ∧
      ∀ m, m < n → ∃ t, runTicks m s = .next t ∧ t.ms.wraps = false) ∧
  (∀ (s : State) (n : Nat), s.read .msPeriod = MAXW →
    ∃ t, runTicks n s = .next t ∧ t.ms.wraps = false ∧ t.read .msPos = (s.read .msPos + n) % 2 ^ 16)

/-- R90, R155: with `MS.period = MAXW` no tick is ever a master wrap: `MS.pos` runs through all `2^W` values and nothing else
changes, however many ticks come. -/
def Obligations.MaximalMasterPeriodStopsGenerators : Prop :=
  ∀ (s : State) (n : Nat), s.read .msPeriod = MAXW →
    ∃ t, runTicks n s = .next t ∧ t.read .msPos = (s.read .msPos + n) % 2 ^ 16 ∧ t.ms.wraps = false ∧
      s.SameBut t [.msPos] ∧ s.SameRest t

/-- R91, R153: the resync latency bound. With the master and A within their cycles, a pending request stays pending for
some `n` ticks, `n < (PG[A].period + 1) * (MS.period + 1)`, and the next tick, A's cycle start, applies it: the generator
then is freshly reset together with A. -/
def Obligations.ResyncLatencyBound : Prop :=
  ∀ (s : State) (x : Gen), s.ms.InCycle → s.pgA.InCycle → s.ms.pending x = true → s.read (.pg x .period) < MAXW →
    ∃ n, n < (s.pgA.period.toNat + 1) * (s.ms.period.toNat + 1) ∧
      (∀ m, m ≤ n → ∃ u, runTicks m s = .next u ∧ u.ms.pending x = true) ∧
      (∃ u, runTicks n s = .next u ∧ u.cycleStartOfA = true) ∧
      ∃ t, runTicks (n + 1) s = .next t ∧ t.ms.pending x = false ∧ (t.pg x).FreshlyReset ∧ t.pgA.FreshlyReset

/-- R62: a generator left by `PGSET.x 0` (`period = MAXW`, `duty = 0`) never has a cycle start again; its `pos` runs through
all `2^W` values, and when it passes from `MAXW` to 0 the output goes low and stays low. -/
def Obligations.DegenerateGeneratorFallsSilent : Prop :=
  ∀ (g : PulseGen) (n : Nat), g.period.toNat = MAXW → g.duty = 0 →
    (PulseGen.clocked n g).wraps = false ∧ (PulseGen.clocked n g).pos.toNat = (g.pos.toNat + n) % 2 ^ 16 ∧
    (PulseGen.clocked n g).out = (g.out && decide (g.pos.toNat + n < 2 ^ 16))

/-- R70: with `duty = 0` and `period < MAXW`, and `pos <= period`, an output once ASSERTED stays ASSERTED through any number
of ticks, resynchronisations included. -/
def Obligations.ZeroDutyNeverDeasserts : Prop :=
  ∀ (s : State) (x : Gen) (n : Nat), (s.pg x).duty = 0 → (s.pg x).InCycle → s.outPort x = true →
    ∃ t, runTicks n s = .next t ∧ t.outPort x = true

/-- R71: with `period = 0` and `pos = 0`, `pos` is 0 after every call of `PGclock`, every call is a cycle start, and the
output is 1 after every call. -/
def Obligations.ZeroPeriodStartsEverySubStep : Prop :=
  ∀ (g : PulseGen) (n : Nat), g.period = 0 → g.pos = 0 →
    (PulseGen.clocked n g).wraps = true ∧ (PulseGen.clocked n g).pos = 0 ∧
    (PulseGen.clocked (n + 1) g).pos = 0 ∧ (PulseGen.clocked (n + 1) g).out = true

/-! Boot, hazards -/

/-- R146, R147: after the boot sequence every generator has its parameters, stands at `pos = period` and is ASSERTED, whatever
the state it found; the first master wrap is tick `n` with `1 <= n <= tm + 2`, no generator changing before it, and at its end the master is at 0,
no request is pending and all three generators are freshly reset. -/
def Obligations.BootNormalisesTheMachine : Prop :=
  ∀ (s : State) (tm ta tb tc cap : Word), tm.toNat < MAXW → ta ≠ 0 → tb ≠ 0 → tc ≠ 0 →
    ∃ u, runEvents (eventsOf (bootCommands tm ta tb tc cap)) s = .next u ∧ u.ms.period = tm ∧ u.violation = s.violation ∧
      (∀ x, (u.pg x).period.toNat + 1 = (perGen ta tb tc x).toNat ∧
        (u.pg x).duty.toNat = min cap.toNat ((perGen ta tb tc x).toNat / 2) ∧
        (u.pg x).pos = (u.pg x).period ∧ (u.pg x).out = true) ∧
      ∃ n, 1 ≤ n ∧ n ≤ tm.toNat + 2 ∧
        (∀ m, m < n → ∃ v, runTicks m u = .next v ∧ v.ms.wraps = decide (m + 1 = n) ∧ ∀ x, v.pg x = u.pg x) ∧
        ∃ t, runTicks n u = .next t ∧ t.ms.period = tm ∧ t.ms.pos = 0 ∧ t.ms.resetB = false ∧ t.ms.resetC = false ∧
          ∀ x, (t.pg x).FreshlyReset ∧ (t.pg x).period = (u.pg x).period ∧ (t.pg x).duty = (u.pg x).duty

/-- R151: a live change of period can cut a cycle short. If `PGSET.x` makes the period no greater than the `pos` in flight, the
next sub-step is a cycle start of `x`. -/
def Obligations.ShorterPeriodCutsTheCycle : Prop :=
  ∀ (s : State) (x : Gen) (ticks cap : Word), 1 ≤ ticks.toNat → ticks.toNat ≤ s.read (.pg x .pos) + 1 →
    s.read (.pg x .pos) < MAXW → s.ms.wraps = true →
    ∃ t, runEvents [eventOf (Instr.pgset x ticks cap), .tick] s = .next t ∧ (t.pg x).FreshlyReset

/-- R152, R156: a generator that is high at or past its `duty` (a `PGSET` lowered it, or a `PGTOG` raised the line) misses
this cycle's pulse end: it stays high through the cycle start and goes low only at `pos = duty` of the next cycle. -/
def Obligations.MissedPulseEndStretchesTheHighPhase : Prop :=
  ∀ g : PulseGen, g.Pulsing → g.out = true → g.duty ≤ g.pos → g.pos ≤ g.period →
    (∀ k, k < g.period.toNat + 1 - g.pos.toNat + g.duty.toNat → (PulseGen.clocked k g).out = true) ∧
    (PulseGen.clocked (g.period.toNat + 1 - g.pos.toNat + g.duty.toNat) g).out = false

/-- R156: a line toggled low stays low until the generator's next cycle start, which raises it. -/
def Obligations.ToggledLowUntilCycleStart : Prop :=
  ∀ g : PulseGen, g.InCycle → g.out = true →
    (∀ k, k < g.period.toNat + 1 - g.pos.toNat → (PulseGen.clocked k g.toggle).out = false) ∧
    (PulseGen.clocked (g.period.toNat + 1 - g.pos.toNat) g.toggle).out = true

/-! The host's side -/

/-- R105, U5: a control cycle with `f = 0`, with a master period of zero, or with an index outside `[0, 10]` is refused. U5
asks for the first two; that an index out of range is refused too, and is named before the others, is this model's own choice
(log entry 16). -/
def Obligations.ControlCycleRefusesDivisionByZero : Prop :=
  ∀ (p : RateParams) (h : HostMemory) (b c f : Nat),
    (b < 11 → c < 11 → f = 0 → ctrlCycle p h b c f = .error .zeroFrequency) ∧
    (b < 11 → c < 11 → 0 < f → p.freqTicks < f → ctrlCycle p h b c f = .error .zeroMasterPeriod) ∧
    (11 ≤ b ∨ 11 ≤ c → ctrlCycle p h b c f = .error .indexOutOfRange)

/-- R103, R104: with admissible parameters, `CTRL_CYCLE b, c, f` issues a resync for each index that changed, then the four
pushes, in this order, and remembers the indices. -/
def Obligations.ControlCycleExpansion : Prop :=
  ∀ (p : RateParams) (h : HostMemory) (b c f : Nat) (hb : b < 11) (hc : c < 11), p.wf = true → p.inRange f = true →
    ∃ period cap tb tc : Word,
      period.toNat = p.freqTicks / f ∧ cap.toNat = p.freqDutyNominal / (p.freqTicks / f) ∧
      tb.toNat = p.bMultipliers[b] ∧ tc.toNat = p.cMultipliers[c] ∧ 1 ≤ period.toNat ∧
      ctrlCycle p h b c f = .ok (⟨b, c⟩,
        (if b = h.bPrev then [] else [.resyncB]) ++ (if c = h.cPrev then [] else [.resyncC]) ++
          [.msset period, .pgsetA 48 cap, .pgsetB tb cap, .pgsetC tc cap]) ∧
      (.msset period : Instr).meetsContract ∧ (Instr.pgsetA 48 cap).meetsContract ∧
      (Instr.pgsetB tb cap).meetsContract ∧ (Instr.pgsetC tc cap).meetsContract

/-- R34, R103, R106: however ticks fall among the commands of one control cycle, the run completes, records no violation, and
leaves every parameter as pushed; with `b = 5`, the unity entry, B has A's period and duty. -/
def Obligations.ControlCycleUnderEveryInterleaving : Prop :=
  ∀ (p : RateParams) (h h' : HostMemory) (b c f : Nat) (is : List Instr) (run : List Event) (s : State),
    p.wf = true → p.inRange f = true → ctrlCycle p h b c f = .ok (h', is) → interleaves (eventsOf is) run = true →
    ∃ t, runEvents run s = .next t ∧ t.violation = s.violation ∧
      t.ms.period.toNat = p.freqTicks / f ∧ t.pgA.period = 47 ∧
      (∀ x, (t.pg x).DutyFits ∧ (t.pg x).duty.toNat ≤ p.freqDutyNominal / (p.freqTicks / f)) ∧
      (some (t.pgB.period.toNat + 1) = p.bMultipliers[b]?) ∧ (some (t.pgC.period.toNat + 1) = p.cMultipliers[c]?) ∧
      (b = 5 → t.pgB.period = t.pgA.period ∧ t.pgB.duty = t.pgA.duty)

/-- R52, R53: reading back the text of a line of a listing gives the line. -/
def Obligations.ListingReadsBack : Prop :=
  ∀ l : ListLine, readLine (writeLine l) = some l
end

