-- ==== Sys2Proof/Laws/Decode.lean ====
section
/-! SUPPORT. The fields of a word put together from its three parts (R41), and masks on such a word. -/

namespace Sys2Proof

@[simp] theorem capField_word (top : BitVec 8) (t c : Word) : capField (word top t c) = c := by
  simp only [capField, word]
  exact BitVec.extractLsb'_append_eq_right

@[simp] theorem ticksField_word (top : BitVec 8) (t c : Word) : ticksField (word top t c) = t := by
  simp only [ticksField, word]
  rw [BitVec.extractLsb'_append_eq_of_le (by omega)]
  exact BitVec.extractLsb'_append_eq_right

@[simp] theorem rsvField_word (top : BitVec 8) (t c : Word) : rsvField (word top t c) = top.extractLsb' 0 2 := by
  simp only [rsvField, word]
  rw [BitVec.extractLsb'_append_eq_of_le (by omega), BitVec.extractLsb'_append_eq_of_le (by omega)]

@[simp] theorem selField_word (top : BitVec 8) (t c : Word) : selField (word top t c) = top.extractLsb' 2 2 := by
  simp only [selField, word]
  rw [BitVec.extractLsb'_append_eq_of_le (by omega), BitVec.extractLsb'_append_eq_of_le (by omega)]

@[simp] theorem opField_word (top : BitVec 8) (t c : Word) : opField (word top t c) = top.extractLsb' 4 4 := by
  simp only [opField, word]
  rw [BitVec.extractLsb'_append_eq_of_le (by omega), BitVec.extractLsb'_append_eq_of_le (by omega)]

theorem topByte_word (top : BitVec 8) (t c : Word) : (word top t c).extractLsb' 32 8 = top := by
  simp only [word]
  rw [BitVec.extractLsb'_append_eq_of_le (by omega)]
  exact BitVec.extractLsb'_append_eq_left

/-- A word is its top byte and its two operand fields. -/
theorem word_of_fields (w : CmdWord) : word (w.extractLsb' 32 8) (ticksField w) (capField w) = w := by
  simp only [word, ticksField, capField]
  rw [BitVec.extractLsb'_append_extractLsb'_eq_extractLsb' (by omega)]
  rw [BitVec.extractLsb'_append_extractLsb'_eq_extractLsb' (by omega)]
  exact BitVec.extractLsb'_eq_self

theorem word_inj {a b : BitVec 8} {t u c d : Word} : word a t c = word b u d ↔ a = b ∧ t = u ∧ c = d := by
  constructor
  · intro h
    exact ⟨by simpa only [topByte_word] using congrArg (BitVec.extractLsb' 32 8) h,
      by simpa using congrArg ticksField h, by simpa using congrArg capField h⟩
  · rintro ⟨rfl, rfl, rfl⟩; rfl

theorem word_and (a b : BitVec 8) (t u c d : Word) : word a t c &&& word b u d = word (a &&& b) (t &&& u) (c &&& d) := by
  simp only [word]
  rw [show ((a ++ t ++ c : BitVec (8 + 16 + 16)) &&& (b ++ u ++ d)) = _ from BitVec.and_append, BitVec.and_append]

end Sys2Proof
end

