-- ==== Sys2Proof/Laws/HostSide.lean ====
section
/-! SUPPORT. What the host-side definitions can answer. -/

namespace Sys2Proof.Machine

/-- Admissible parameters give, for every frequency of the range, a master period and a duty cap that fit (R8, R105). -/
theorem RateParams.range_fits {p : RateParams} (h : p.rangeWf = true) {f : Nat} (hf : p.inRange f = true) :
    0 < f ∧ 1 ≤ p.masterTickPeriod f ∧ p.masterTickPeriod f ≤ MAXW ∧ p.dutyCap f ≤ MAXW := by
  simp only [RateParams.rangeWf, RateParams.inRange, Bool.and_eq_true, decide_eq_true_eq] at h hf
  obtain ⟨⟨⟨h1, h2⟩, h3⟩, h4⟩ := h
  obtain ⟨hl, hu⟩ := hf
  have hf0 : 0 < f := by omega
  refine ⟨hf0, ?_, ?_, ?_⟩
  · exact (Nat.one_le_div_iff hf0).2 (by omega)
  · exact (Nat.div_le_div_left hl (by omega)).trans h3
  · have hq : p.masterTickPeriod (p.freqMin + p.freqSpan) ≤ p.masterTickPeriod f := Nat.div_le_div_left hu hf0
    have hp : 0 < p.masterTickPeriod (p.freqMin + p.freqSpan) :=
      (Nat.one_le_div_iff (by omega)).2 h2
    exact (Nat.div_le_div_left hq hp).trans h4

/-- A control cycle that is not refused has issued its requests and its four pushes (R103). -/
theorem ctrlCycle_ok {p : RateParams} {h h' : HostMemory} {b c f : Nat} {is : List Instr}
    (e : ctrlCycle p h b c f = .ok (h', is)) :
    ∃ tb tc, p.bMultipliers[b]? = some tb ∧ p.cMultipliers[c]? = some tc ∧ f ≠ 0 ∧ p.masterTickPeriod f ≠ 0 ∧
      h' = ⟨b, c⟩ ∧
      is = resyncRequests h b c ++
        pushes (operandOf (p.masterTickPeriod f)) (operandOf (p.dutyCap f)) (operandOf tb) (operandOf tc) := by
  unfold ctrlCycle at e
  split at e
  · rename_i tb tc hb hc
    split at e
    · cases e
    · split at e
      · cases e
      · split at e
        · cases e; exact ⟨tb, tc, hb, hc, ‹_›, ‹_›, rfl, rfl⟩
        · cases e
  · cases e

/-- Only ticks may stand among the host's commands (R34). -/
theorem interleaves_nil {run : List Event} (h : interleaves [] run = true) : ∀ e ∈ run, e = .tick := by
  induction run with
  | nil => intro e he; cases he
  | cons a run ih =>
    cases a with
    | tick =>
      intro e he
      rcases List.mem_cons.1 he with rfl | he
      · rfl
      · exact ih (by simpa [interleaves] using h) e he
    | reset => simp [interleaves] at h
    | cmd w => simp [interleaves] at h

end Sys2Proof.Machine
end

