-- ==== Sys2Proof/Laws/State.lean ====
section
/-! SUPPORT. What each update of the state writes and what it leaves: one lemma per field per update. -/

namespace Sys2Proof.Machine

/-! `setPg` -/

@[simp] theorem State.setPg_ms (s : State) (x : Gen) (g : PulseGen) : (s.setPg x g).ms = s.ms := by cases x <;> rfl
@[simp] theorem State.setPg_rsp (s : State) (x : Gen) (g : PulseGen) : (s.setPg x g).rsp = s.rsp := by cases x <;> rfl
@[simp] theorem State.setPg_violation (s : State) (x : Gen) (g : PulseGen) :
    (s.setPg x g).violation = s.violation := by cases x <;> rfl
@[simp] theorem State.setPg_resets (s : State) (x : Gen) (g : PulseGen) : (s.setPg x g).resets = s.resets := by
  cases x <;> rfl
@[simp] theorem State.setPg_inputs (s : State) (x : Gen) (g : PulseGen) : (s.setPg x g).inputs = s.inputs := by
  cases x <;> rfl
@[simp] theorem State.pg_setPg (s : State) (x : Gen) (g : PulseGen) : (s.setPg x g).pg x = g := by cases x <;> rfl
theorem State.pg_setPg_of_ne (s : State) {x y : Gen} (g : PulseGen) (h : y ≠ x) : (s.setPg x g).pg y = s.pg y := by
  cases x <;> cases y <;> first | rfl | exact absurd rfl h
theorem State.pg_setPg_cases (s : State) (x y : Gen) (g : PulseGen) :
    (s.setPg x g).pg y = if y = x then g else s.pg y := by cases x <;> cases y <;> rfl

/-! The generator accessor on the three fields -/

@[simp] theorem State.pg_A (s : State) : s.pg .A = s.pgA := rfl
@[simp] theorem State.pg_B (s : State) : s.pg .B = s.pgB := rfl
@[simp] theorem State.pg_C (s : State) : s.pg .C = s.pgC := rfl
@[simp] theorem State.pg_withMs (s : State) (m : Master) (x : Gen) : State.pg { s with ms := m } x = s.pg x := by
  cases x <;> rfl
@[simp] theorem State.pg_withRsp (s : State) (b : Bool) (x : Gen) : State.pg { s with rsp := b } x = s.pg x := by
  cases x <;> rfl
@[simp] theorem State.pg_withInputs (s : State) (es : List Event) (x : Gen) :
    State.pg { s with inputs := es } x = s.pg x := by cases x <;> rfl

/-! `noteDegenerate` -/

@[simp] theorem State.noteDegenerate_ms (s : State) (t : Word) : (s.noteDegenerate t).ms = s.ms := rfl
@[simp] theorem State.noteDegenerate_rsp (s : State) (t : Word) : (s.noteDegenerate t).rsp = s.rsp := rfl
@[simp] theorem State.noteDegenerate_resets (s : State) (t : Word) : (s.noteDegenerate t).resets = s.resets := rfl
@[simp] theorem State.noteDegenerate_inputs (s : State) (t : Word) : (s.noteDegenerate t).inputs = s.inputs := rfl
@[simp] theorem State.noteDegenerate_pg (s : State) (t : Word) (x : Gen) : (s.noteDegenerate t).pg x = s.pg x := by
  cases x <;> rfl
@[simp] theorem State.noteDegenerate_violation (s : State) (t : Word) :
    (s.noteDegenerate t).violation = (s.violation || t == 0) := rfl

/-! The flags -/

@[simp] theorem Master.requestB_period (m : Master) : m.requestB.period = m.period := rfl
@[simp] theorem Master.requestB_pos (m : Master) : m.requestB.pos = m.pos := rfl
@[simp] theorem Master.requestB_resetB (m : Master) : m.requestB.resetB = true := rfl
@[simp] theorem Master.requestB_resetC (m : Master) : m.requestB.resetC = m.resetC := rfl
@[simp] theorem Master.requestC_period (m : Master) : m.requestC.period = m.period := rfl
@[simp] theorem Master.requestC_pos (m : Master) : m.requestC.pos = m.pos := rfl
@[simp] theorem Master.requestC_resetB (m : Master) : m.requestC.resetB = m.resetB := rfl
@[simp] theorem Master.requestC_resetC (m : Master) : m.requestC.resetC = true := rfl
@[simp] theorem Master.clearB_period (m : Master) : m.clearB.period = m.period := rfl
@[simp] theorem Master.clearB_pos (m : Master) : m.clearB.pos = m.pos := rfl
@[simp] theorem Master.clearB_resetB (m : Master) : m.clearB.resetB = false := rfl
@[simp] theorem Master.clearB_resetC (m : Master) : m.clearB.resetC = m.resetC := rfl
@[simp] theorem Master.clearC_period (m : Master) : m.clearC.period = m.period := rfl
@[simp] theorem Master.clearC_pos (m : Master) : m.clearC.pos = m.pos := rfl
@[simp] theorem Master.clearC_resetB (m : Master) : m.clearC.resetB = m.resetB := rfl
@[simp] theorem Master.clearC_resetC (m : Master) : m.clearC.resetC = false := rfl

/-! `setPeriod`, `resetPhase`, `toggle` on a generator -/

@[simp] theorem PulseGen.setPeriod_period (g : PulseGen) (t c : Word) : (g.setPeriod t c).period = pgPeriodOf t := rfl
@[simp] theorem PulseGen.setPeriod_duty (g : PulseGen) (t c : Word) : (g.setPeriod t c).duty = pgDutyOf t c := rfl
@[simp] theorem PulseGen.setPeriod_pos (g : PulseGen) (t c : Word) : (g.setPeriod t c).pos = g.pos := rfl
@[simp] theorem PulseGen.setPeriod_out (g : PulseGen) (t c : Word) : (g.setPeriod t c).out = g.out := rfl
@[simp] theorem PulseGen.resetPhase_period (g : PulseGen) : g.resetPhase.period = g.period := rfl
@[simp] theorem PulseGen.resetPhase_duty (g : PulseGen) : g.resetPhase.duty = g.duty := rfl
@[simp] theorem PulseGen.resetPhase_pos (g : PulseGen) : g.resetPhase.pos = g.period := rfl
@[simp] theorem PulseGen.resetPhase_out (g : PulseGen) : g.resetPhase.out = true := rfl
@[simp] theorem PulseGen.toggle_period (g : PulseGen) : g.toggle.period = g.period := rfl
@[simp] theorem PulseGen.toggle_duty (g : PulseGen) : g.toggle.duty = g.duty := rfl
@[simp] theorem PulseGen.toggle_pos (g : PulseGen) : g.toggle.pos = g.pos := rfl
@[simp] theorem PulseGen.toggle_out (g : PulseGen) : g.toggle.out = !g.out := rfl

/-! `applyReset` -/

@[simp] theorem State.applyReset_violation (s : State) (d : ResetDraw) : (s.applyReset d).violation = s.violation := rfl
@[simp] theorem State.applyReset_inputs (s : State) (d : ResetDraw) : (s.applyReset d).inputs = s.inputs := rfl
@[simp] theorem State.applyReset_resets (s : State) (d : ResetDraw) : (s.applyReset d).resets = s.resets + 1 := rfl
@[simp] theorem State.applyReset_rsp (s : State) (d : ResetDraw) : (s.applyReset d).rsp = d.rsp := rfl
@[simp] theorem State.applyReset_out (s : State) (d : ResetDraw) (x : Gen) : ((s.applyReset d).pg x).out = true := by
  cases x <;> rfl
theorem State.applyReset_pair (s : State) (d : ResetDraw) :
    ∀ x, (((s.applyReset d).pg x).period, ((s.applyReset d).pg x).duty) =
      match x with
      | .A => (d.periodA, d.dutyA)
      | .B => (d.periodB, d.dutyB)
      | .C => (d.periodC, d.dutyC) := by
  intro x; cases x <;> rfl

/-! `present` -/

@[simp] theorem State.present_ms (s : State) (es : List Event) : (s.present es).ms = s.ms := rfl
@[simp] theorem State.present_pg (s : State) (es : List Event) (x : Gen) : (s.present es).pg x = s.pg x := by
  cases x <;> rfl
@[simp] theorem State.present_inputs (s : State) (es : List Event) : (s.present es).inputs = es ++ s.inputs := rfl

end Sys2Proof.Machine
end

