-- ==== Sys2Proof/Laws/Ops.lean ====
section
/-! SUPPORT. One lemma per shared operation that says everything it can do. -/

namespace Sys2Proof.Machine

/-! Arithmetic of the counters and operands, as integers (R22, R75, R94) -/

theorem advance_toNat (p : Word) : (advance p).toNat = (p.toNat + 1) % 65536 := by
  simp [advance, BitVec.toNat_add]

theorem exceeds_iff (p q : Word) : exceeds p q = true ↔ q.toNat < p.toNat := by
  simp [exceeds, BitVec.lt_def]

theorem pgPeriodOf_toNat (t : Word) : (pgPeriodOf t).toNat = (t.toNat + 65535) % 65536 := by
  simp [pgPeriodOf, BitVec.toNat_sub]; omega

theorem pgDutyOf_toNat (t c : Word) : (pgDutyOf t c).toNat = min c.toNat (t.toNat / 2) := by
  unfold pgDutyOf
  split <;> rename_i h <;>
    simp only [BitVec.le_def, BitVec.toNat_ushiftRight, Nat.shiftRight_eq_div_pow, pow_one] at h ⊢ <;> omega

theorem pgDutyOf_le_period (t c : Word) : pgDutyOf t c ≤ pgPeriodOf t := by
  rw [BitVec.le_def, pgDutyOf_toNat, pgPeriodOf_toNat]
  have := t.isLt
  rcases Nat.eq_zero_or_pos t.toNat with h | h <;> omega

/-! `PGclock` (R66): the two outcomes -/

theorem PulseGen.wraps_iff (g : PulseGen) :
    g.wraps = true ↔ g.period.toNat < (g.pos.toNat + 1) % 65536 := by
  rw [PulseGen.wraps, exceeds_iff, advance_toNat]

theorem PulseGen.clock_cases (g : PulseGen) :
    (g.wraps = true ∧ g.clock = { g with pos := 0, out := true }) ∨
      (g.wraps = false ∧ g.clock = { g with pos := advance g.pos, out := g.outAtDuty (advance g.pos) }) := by
  unfold PulseGen.clock
  cases h : g.wraps <;> simp

@[simp] theorem PulseGen.clock_period (g : PulseGen) : g.clock.period = g.period := by
  obtain ⟨_, h⟩ | ⟨_, h⟩ := g.clock_cases <;> rw [h]

@[simp] theorem PulseGen.clock_duty (g : PulseGen) : g.clock.duty = g.duty := by
  obtain ⟨_, h⟩ | ⟨_, h⟩ := g.clock_cases <;> rw [h]

theorem PulseGen.clock_of_wraps {g : PulseGen} (h : g.wraps = true) : g.clock = { g with pos := 0, out := true } := by
  simp [PulseGen.clock, h]

theorem PulseGen.clock_of_not_wraps {g : PulseGen} (h : g.wraps = false) :
    g.clock = { g with pos := advance g.pos, out := g.outAtDuty (advance g.pos) } := by
  simp [PulseGen.clock, h]

/-- From any `pos` but `MAXW`, `PGclock` ends with `pos <= period` (R18 (b), R72, R143). -/
theorem PulseGen.clock_pos_le (g : PulseGen) : g.clock.pos ≤ g.clock.period := by
  obtain ⟨_, h⟩ | ⟨hw, h⟩ := g.clock_cases
  · rw [h]; simp [BitVec.le_def]
  · rw [h]
    have := mt g.wraps_iff.2 (by simp [hw])
    rw [BitVec.le_def, advance_toNat]; simpa using this

/-- A generator just phase-reset wraps at its next clock (R64, R88). -/
theorem PulseGen.resetPhase_wraps {g : PulseGen} (h : g.period.toNat < 65535) : g.resetPhase.wraps = true := by
  rw [PulseGen.wraps_iff, PulseGen.resetPhase_pos, PulseGen.resetPhase_period]; omega

/-! `applyPendingResets` (R87) -/

/-- What `applyPendingResets` leaves of generator `x`. -/
def afterPending (s : State) : Gen → PulseGen
  | .A => s.pgA
  | .B => if s.ms.resetB then s.pgB.resetPhase else s.pgB
  | .C => if s.ms.resetC then s.pgC.resetPhase else s.pgC

theorem State.applyPendingResets_eq (s : State) :
    s.applyPendingResets =
      { s with
        ms := ⟨s.ms.period, s.ms.pos, false, false⟩
        pgB := afterPending s .B
        pgC := afterPending s .C } := by
  obtain ⟨⟨p, q, b, c⟩, a, gb, gc, r, v, n, es⟩ := s
  cases b <;> cases c <;> rfl

/-! `TICK` (R85) -/

theorem Master.wraps_iff (m : Master) : m.wraps = true ↔ m.period.toNat < (m.pos.toNat + 1) % 65536 := by
  rw [Master.wraps, exceeds_iff, advance_toNat]

/-- What a `TICK` leaves: no master wrap, a master wrap alone, or a master wrap with A's cycle start (R85, R87, R92). -/
theorem State.clockMaster_cases (s : State) :
    (s.ms.wraps = false ∧
      s.clockMaster .afterA = { s with ms := ⟨s.ms.period, advance s.ms.pos, s.ms.resetB, s.ms.resetC⟩ }) ∨
    (s.ms.wraps = true ∧ s.pgA.wraps = false ∧
      s.clockMaster .afterA =
        { s with
          ms := ⟨s.ms.period, 0, s.ms.resetB, s.ms.resetC⟩
          pgA := s.pgA.clock
          pgB := s.pgB.clock
          pgC := s.pgC.clock }) ∨
    (s.ms.wraps = true ∧ s.pgA.wraps = true ∧
      s.clockMaster .afterA =
        { s with
          ms := ⟨s.ms.period, 0, false, false⟩
          pgA := { s.pgA with pos := 0, out := true }
          pgB := (afterPending s .B).clock
          pgC := (afterPending s .C).clock }) := by
  cases hm : s.ms.wraps
  · exact .inl ⟨rfl, by simp [State.clockMaster, hm]⟩
  · cases ha : s.pgA.wraps
    · refine .inr (.inl ⟨rfl, rfl, ?_⟩)
      simp [State.clockMaster, hm, State.subStep, ha, State.clockPg, State.setPg]
    · refine .inr (.inr ⟨rfl, rfl, ?_⟩)
      simp [State.clockMaster, hm, State.subStep, ha, State.clockPg, State.setPg, State.applyPendingResets_eq,
        PulseGen.clock_of_wraps ha, afterPending]

end Sys2Proof.Machine
end

