-- ==== Sys2Proof/Laws/PerInstr.lean ====
section
/-! SUPPORT. Facts about each instruction as syntax, one lemma per constructor. -/

namespace Sys2Proof.Laws.OwnRow

/-- The word of an instruction belongs to the row of its own mnemonic in the opcode table, and to no other row (R46, R49). -/
def Statement (i : Instr) : Prop :=
  ∀ r ∈ opcodeTable, r.covers (encode i) = decide (r.mnemonic = Machine.mnemonicOf i)

/-- A mask that takes the top byte whole: the row is decided by the top byte and the masked operand fields. -/
theorem covers_word (name : String) (a b m : BitVec 8) (t u c d k l : Word) :
    Row.covers ⟨name, word m u d, word b k l⟩ (word a t c) =
      decide (a &&& m = b ∧ t &&& u = k ∧ c &&& d = l) := by
  rw [Row.covers, word_and, beq_eq_decide]
  exact decide_eq_decide.2 word_inj

/-- The rows of the table with their masks and patterns written by fields. -/
theorem opcodeTable_by_fields :
    opcodeTable =
      [⟨"MSSET", word 0xFF 0 0xFFFF, word 0x10 0 0⟩, ⟨"PGSET.A", word 0xFF 0 0, word 0x20 0 0⟩,
       ⟨"PGSET.B", word 0xFF 0 0, word 0x24 0 0⟩, ⟨"PGSET.C", word 0xFF 0 0, word 0x28 0 0⟩,
       ⟨"RESYNC.B", word 0xFF 0xFFFF 0xFFFF, word 0x34 0 0⟩, ⟨"RESYNC.C", word 0xFF 0xFFFF 0xFFFF, word 0x38 0 0⟩,
       ⟨"PGRST.A", word 0xFF 0xFFFF 0xFFFF, word 0x40 0 0⟩, ⟨"PGRST.B", word 0xFF 0xFFFF 0xFFFF, word 0x44 0 0⟩,
       ⟨"PGRST.C", word 0xFF 0xFFFF 0xFFFF, word 0x48 0 0⟩, ⟨"PGTOG.A", word 0xFF 0xFFFF 0xFFFF, word 0x50 0 0⟩,
       ⟨"PGTOG.B", word 0xFF 0xFFFF 0xFFFF, word 0x54 0 0⟩, ⟨"PGTOG.C", word 0xFF 0xFFFF 0xFFFF, word 0x58 0 0⟩,
       ⟨"PGQRY.A", word 0xFF 0xFFFF 0xFFFF, word 0x60 0 0⟩, ⟨"PGQRY.B", word 0xFF 0xFFFF 0xFFFF, word 0x64 0 0⟩,
       ⟨"PGQRY.C", word 0xFF 0xFFFF 0xFFFF, word 0x68 0 0⟩, ⟨"TICK", word 0xFF 0xFFFF 0xFFFF, word 0x70 0 0⟩] := by
  decide

theorem msset (t : Word) : Statement (.msset t) := by
  simp [Statement, opcodeTable_by_fields, encode, covers_word, Machine.mnemonicOf]

theorem pgsetA (t c : Word) : Statement (.pgsetA t c) := by
  simp [Statement, opcodeTable_by_fields, encode, covers_word, Machine.mnemonicOf]

theorem pgsetB (t c : Word) : Statement (.pgsetB t c) := by
  simp [Statement, opcodeTable_by_fields, encode, covers_word, Machine.mnemonicOf]

theorem pgsetC (t c : Word) : Statement (.pgsetC t c) := by
  simp [Statement, opcodeTable_by_fields, encode, covers_word, Machine.mnemonicOf]

theorem resyncB : Statement .resyncB := by unfold Statement; decide
theorem resyncC : Statement .resyncC := by unfold Statement; decide
theorem pgrstA : Statement .pgrstA := by unfold Statement; decide
theorem pgrstB : Statement .pgrstB := by unfold Statement; decide
theorem pgrstC : Statement .pgrstC := by unfold Statement; decide
theorem pgtogA : Statement .pgtogA := by unfold Statement; decide
theorem pgtogB : Statement .pgtogB := by unfold Statement; decide
theorem pgtogC : Statement .pgtogC := by unfold Statement; decide
theorem pgqryA : Statement .pgqryA := by unfold Statement; decide
theorem pgqryB : Statement .pgqryB := by unfold Statement; decide
theorem pgqryC : Statement .pgqryC := by unfold Statement; decide
theorem tick : Statement .tick := by unfold Statement; decide

end Sys2Proof.Laws.OwnRow
end

