-- ==== Sys2Proof/Laws/Step.lean ====
section
/-! SUPPORT. What a step and a run can do. -/

namespace Sys2Proof.Machine

theorem step_of_no_event {s : State} (h : s.inputs = []) : step s = .next s := by
  simp [step, nextEvent, h]

theorem step_of_event {s : State} {e : Event} {rest : List Event} (h : s.inputs = e :: rest) :
    step s = applyEvent e { s with inputs := rest } := by
  simp [step, nextEvent, h]

/-- A presented event is the one the next step applies, to the state it was presented to. -/
theorem step_present (s : State) (e : Event) : step (s.present [e]) = applyEvent e s :=
  step_of_event rfl

/-! No instruction and no event reads or writes the events still to come -/

theorem State.clockMaster_present (s : State) (es : List Event) :
    (s.present es).clockMaster .afterA = (s.clockMaster .afterA).present es := by
  have hw : (s.present es).ms.wraps = s.ms.wraps := rfl
  have ha : (s.present es).pgA.wraps = s.pgA.wraps := rfl
  obtain ⟨h, e⟩ | ⟨h, k, e⟩ | ⟨h, k, e⟩ := s.clockMaster_cases <;>
    obtain ⟨h', e'⟩ | ⟨h', k', e'⟩ | ⟨h', k', e'⟩ := (s.present es).clockMaster_cases <;>
    first | (simp_all; done) | (rw [e, e']; rfl)

theorem exec_present (i : Instr) (s : State) (es : List Event) :
    exec i (s.present es) = match exec i s with
      | .next t => .next (t.present es)
      | .fault r => .fault r
      | .refused r => .refused r := by
  cases i
  case tick => exact congrArg Host.Outcome.next (s.clockMaster_present es)
  all_goals rfl

theorem applyEvent_present (e : Event) (s : State) (es : List Event) :
    applyEvent e (s.present es) = match applyEvent e s with
      | .next t => .next (t.present es)
      | .fault r => .fault r
      | .refused r => .refused r := by
  cases e with
  | reset => rfl
  | tick => exact exec_present .tick s es
  | cmd w =>
    simp only [applyEvent, applyCommand]
    cases decodeCommand w with
    | none => rfl
    | some i => exact exec_present i s es

theorem run_of_next (M : Host.Core) (k : Nat) {s t : M.State} (h : M.step s = .next t) : M.run (k + 1) s = M.run k t := by
  rw [Host.Core.run, h]

theorem run_of_fault (M : Host.Core) (k : Nat) {s : M.State} {r : M.Fault} (h : M.step s = .fault r) :
    M.run (k + 1) s = .fault r := by
  rw [Host.Core.run, h]

theorem run_of_refused (M : Host.Core) (k : Nat) {s : M.State} {r : M.Refusal} (h : M.step s = .refused r) :
    M.run (k + 1) s = .refused r := by
  rw [Host.Core.run, h]

/-- A run of this model is `Host.Core.run` of its core. -/
theorem runSteps_eq_core_run (k : Nat) (s : State) : runSteps k s = Sys2Proof.core.run k s := by
  induction k generalizing s with
  | zero => rfl
  | succ k ih =>
    rw [runSteps]
    cases h : step s with
    | next t => exact (ih t).trans (run_of_next Sys2Proof.core k h).symm
    | fault r => exact (run_of_fault Sys2Proof.core k h).symm
    | refused r => exact (run_of_refused Sys2Proof.core k h).symm

theorem runEvents_nil (s : State) : runEvents [] s = .next s := rfl

/-- A run applies its first event, then the rest from where that leads. -/
theorem runEvents_cons (e : Event) (es : List Event) (s : State) :
    runEvents (e :: es) s =
      match applyEvent e s with
      | .next t => runEvents es t
      | .fault r => .fault r
      | .refused r => .refused r := by
  rw [runEvents, List.length_cons, runSteps, step_of_event (State.present_inputs s (e :: es))]
  show (match applyEvent e (s.present es) with
    | .next t => runSteps es.length t
    | .fault r => .fault r
    | .refused r => .refused r) = _
  rw [applyEvent_present]
  cases applyEvent e s <;> rfl

/-- A run of several parts is the parts in turn. -/
theorem runEvents_append (es fs : List Event) {s t : State} (h : runEvents es s = .next t) :
    runEvents (es ++ fs) s = runEvents fs t := by
  induction es generalizing s with
  | nil => cases h; rfl
  | cons e es ih =>
    rw [List.cons_append, runEvents_cons]
    rw [runEvents_cons] at h
    cases ha : applyEvent e s with
    | next u => rw [ha] at h; exact ih h
    | fault r => rw [ha] at h; cases h
    | refused r => rw [ha] at h; cases h

/-- A tick followed by `n` ticks. -/
theorem runTicks_succ (n : Nat) (s : State) : runTicks (n + 1) s = runTicks n (s.clockMaster .afterA) :=
  runEvents_cons .tick (List.replicate n .tick) s

/-- `n` ticks followed by a tick. -/
theorem runTicks_succ_last (n : Nat) {s t : State} (h : runTicks n s = .next t) :
    runTicks (n + 1) s = .next (t.clockMaster .afterA) := by
  rw [runTicks, List.replicate_succ', runEvents_append _ _ h]; rfl

/-- Any number of ticks completes. -/
theorem runTicks_completes (n : Nat) (s : State) : ∃ t, runTicks n s = .next t := by
  induction n generalizing s with
  | zero => exact ⟨s, rfl⟩
  | succ n ih => rw [runTicks_succ]; exact ih _

/-- Every instruction completes, in every state (R120). -/
theorem exec_completes (i : Instr) (s : State) : ∃ t, exec i s = .next t := by
  cases i <;> exact ⟨_, rfl⟩

/-- What a step that answers a next state has done: nothing, a `RESET`, a `TICK`, or a command. -/
theorem step_cases {s t : State} (h : step s = .next t) :
    (s.inputs = [] ∧ t = s) ∨
    (∃ rest, s.inputs = .reset :: rest ∧
      t = State.applyReset { s with inputs := rest } (Config.resetDraw s.resets)) ∨
    (∃ rest, s.inputs = .tick :: rest ∧ t = State.clockMaster { s with inputs := rest } Config.resyncPoint) ∨
    (∃ w rest i, s.inputs = .cmd w :: rest ∧ decodeCommand w = some i ∧ exec i { s with inputs := rest } = .next t) := by
  cases hs : s.inputs with
  | nil => rw [step_of_no_event hs] at h; cases h; exact .inl ⟨rfl, rfl⟩
  | cons e rest =>
    rw [step_of_event hs] at h
    cases e with
    | reset => cases h; exact .inr (.inl ⟨rest, rfl, rfl⟩)
    | tick => cases h; exact .inr (.inr (.inl ⟨rest, rfl, rfl⟩))
    | cmd w =>
      simp only [applyEvent, applyCommand] at h
      cases hd : decodeCommand w with
      | none => rw [hd] at h; cases h
      | some i => rw [hd] at h; exact .inr (.inr (.inr ⟨w, rest, i, rfl, hd, h⟩))

end Sys2Proof.Machine
end

