-- ==== Sys2Proof/Tests/Slice0.lean ====
section
/-! SUPPORT. Tests: ill-formed words the checks refuse, a word for every constructor, single steps whose results are rows of
95_test_vectors.md, and for every obligation with hypotheses a named witness that meets them. -/

open Sys2Proof Sys2Proof.Machine

namespace Sys2Proof.Tests

/-! Small states -/

/-- A generator written as the vectors write it: `period/duty/pos/out`. -/
def gen (period duty pos : Word) (out : Bool) : PulseGen := ⟨period, duty, pos, out⟩

/-- A machine with no event to come and `rsp = 0`. -/
def mach (m : Master) (a b c : PulseGen) : State := ⟨m, a, b, c, false, false, 0, []⟩

/-- The master of V4: a wrap on every tick. -/
def everyTick (resetB resetC : Bool) : Master := ⟨0, 0, resetB, resetC⟩

/-- The start rows of V4: A `3/2`, B `5/3/2/1`, C `7/4/6/0`. -/
def v4 (resetB resetC : Bool) (posA : Word) (outA : Bool) : State :=
  mach (everyTick resetB resetC) (gen 3 2 posA outA) (gen 5 3 2 true) (gen 7 4 6 false)

/-- What a V4 row shows: the flags, then `pos/out` of A, B and C. -/
def v4Row (s : State) : (Bool × Bool) × (Word × Bool) × (Word × Bool) × (Word × Bool) :=
  ((s.ms.resetB, s.ms.resetC), (s.pgA.pos, s.pgA.out), (s.pgB.pos, s.pgB.out), (s.pgC.pos, s.pgC.out))

/-- One step's next state satisfies `p`. -/
def nextIs (p : State → Bool) : Host.Outcome State Fault Refusal → Bool
  | .next s => p s
  | .fault _ => false
  | .refused _ => false

/-- The state at `i` of the opcode table's word run as the first event after reset. -/
def fromReset (w : Nat) : Host.Outcome State Fault Refusal := step (State.reset.withFetchWord 40 w)

/-! Ill-formed words and values, one for each check -/

/-- R47 (a): `op = 0x0`. -/
theorem test_illformed_op_zero : traceWordWf 0x0000000000 = false := by decide
/-- R47 (a): `op = 0x8`. -/
theorem test_illformed_op_eight : traceWordWf 0x8000000000 = false := by decide
/-- R47 (b): `sel = 11`. -/
theorem test_illformed_selector : traceWordWf 0x2C00300014 = false := by decide
/-- R47 (c): `rsv = 01`. -/
theorem test_illformed_rsv : traceWordWf 0x2100300014 = false := by decide
/-- R47 (d): `RESYNC` with `sel = A`. -/
theorem test_illformed_resync_a : traceWordWf 0x3000000000 = false := by decide
/-- R47 (e): `MSSET` with `sel = 01`. -/
theorem test_illformed_msset_sel : traceWordWf 0x1400040000 = false := by decide
/-- R47 (e): `TICK` with `sel = 01`. -/
theorem test_illformed_tick_sel : traceWordWf 0x7400000000 = false := by decide
/-- R47 (f): `PGRST` with a `cap`. -/
theorem test_illformed_cap : traceWordWf 0x4400000001 = false := by decide
/-- R47 (f): `PGTOG` with `ticks`. -/
theorem test_illformed_ticks : traceWordWf 0x5000010000 = false := by decide
/-- R47 (g): `TICK` is a word of a trace and not one of the command port. -/
theorem test_illformed_tick_on_command_port :
    traceWordWf 0x7000000000 = true ∧ commandWordWf 0x7000000000 = false := by decide
/-- R48, R62: `PGSET.A 0, 5` is a legal word that breaks the contract. -/
theorem test_contract_breach : commandWordWf 0x2000000005 = true ∧ (Instr.pgsetA 0 5).meetsContract = false := by decide
/-- R8: a table with an entry 0, and one with an entry above `MAXW`. -/
theorem test_illformed_tables :
    tableWf (Vector.replicate 11 0) = false ∧ tableWf (Vector.replicate 11 65536) = false := by decide

/-- Example parameters, those of 95_test_vectors.md P3 with every open table entry at the value P3 uses. -/
def params : RateParams where
  bMultipliers := Vector.replicate 11 48
  cMultipliers := Vector.replicate 11 24
  freqTicks := 1000
  freqMin := 100
  freqSpan := 150
  freqDutyNominal := 100

/-- R8: a frequency of zero, a quotient of zero, a quotient or a cap that does not fit. -/
theorem test_illformed_ranges :
    RateParams.rangeWf { params with freqMin := 0 } = false ∧ RateParams.rangeWf { params with freqTicks := 249 } = false ∧
      RateParams.rangeWf { params with freqTicks := 6553600 } = false ∧
      RateParams.rangeWf { params with freqDutyNominal := 300000 } = false := by decide
/-- R8, R106: the unity entry is 48. -/
theorem test_illformed_unity : RateParams.wf { params with bMultipliers := Vector.replicate 11 47 } = false := by decide

/-! Decoding: every constructor's word, from R49 and V6 -/

/-- V6: `MSSET 4` is `0001 00 00`, then 4, then 0. -/
theorem test_decode_msset :
    decode 0b0001000000000000000001000000000000000000 = some (.msset 4) ∧ decode 0x10FFFF0000 = some (.msset 65535) := by
  decide
/-- V6: `PGSET.A 48, 20` is `0010 00 00`, then 48, then 20. -/
theorem test_decode_pgsetA : decode 0b0010000000000000001100000000000000010100 = some (.pgsetA 48 20) := by decide
/-- V6. -/
theorem test_decode_pgsetB : decode 0x2400300019 = some (.pgsetB 48 25) := by decide
/-- V6. -/
theorem test_decode_pgsetC : decode 0x28FFFFFFFF = some (.pgsetC 65535 65535) := by decide
/-- V6: `RESYNC.B` is `0011 01 00`, then zeros. -/
theorem test_decode_resyncB : decode 0b0011010000000000000000000000000000000000 = some .resyncB := by decide
/-- R49. -/
theorem test_decode_resyncC : decode 0x3800000000 = some .resyncC := by decide
/-- V6: `PGRST.A` is `0100 00 00`, then zeros. -/
theorem test_decode_pgrstA : decode 0b0100000000000000000000000000000000000000 = some .pgrstA := by decide
/-- R49. -/
theorem test_decode_pgrstB : decode 0x4400000000 = some .pgrstB := by decide
/-- R49. -/
theorem test_decode_pgrstC : decode 0x4800000000 = some .pgrstC := by decide
/-- R49. -/
theorem test_decode_pgtogA : decode 0x5000000000 = some .pgtogA := by decide
/-- V6: `PGTOG.B` is `0101 01 00`, then zeros. -/
theorem test_decode_pgtogB : decode 0b0101010000000000000000000000000000000000 = some .pgtogB := by decide
/-- R49. -/
theorem test_decode_pgtogC : decode 0x5800000000 = some .pgtogC := by decide
/-- R49. -/
theorem test_decode_pgqryA : decode 0x6000000000 = some .pgqryA := by decide
/-- R49. -/
theorem test_decode_pgqryB : decode 0x6400000000 = some .pgqryB := by decide
/-- V6: `PGQRY.C` is `0110 10 00`, then zeros. -/
theorem test_decode_pgqryC : decode 0b0110100000000000000000000000000000000000 = some .pgqryC := by decide
/-- V6: `TICK` in a trace; reserved on the command port. -/
theorem test_decode_tick : decode 0x7000000000 = some .tick ∧ decodeCommand 0x7000000000 = none := by decide
/-- The table's numbering is the word's own. -/
theorem test_decodeTableWord :
    decodeTableWord 40 0x2000300014 = some (.pgsetA 48 20) ∧ decodeTableWord 40 0x7000000000 = some .tick ∧
      decodeTableWord 48 0x2000300014 = none := by decide

/-! Registers (R10, R11) and reset (R23) -/

/-- R11: the numbers 0 to 15 in order. -/
theorem test_register_numbers : Reg.all.map Reg.number = List.range 16 := by decide
/-- R10, R11: eleven registers of `W` bits and five single bits (R10 counts nine of the eleven; log entry 9). -/
theorem test_register_widths : (Reg.all.map Reg.width).count 16 = 11 ∧ (Reg.all.map Reg.width).count 1 = 5 := by decide
/-- V7.1: the outputs after reset, and no violation is recorded. -/
theorem test_reset_outputs : State.reset.observe = (true, true, true) ∧ State.reset.violation = false := by decide

/-! MSSET, RESYNC and TICK -/

/-- V3.7: `MSSET 4` writes `MS.period` and leaves `MS.pos`. -/
theorem test_msset : nextIs (fun s => s.ms.period = 4 ∧ s.ms.pos = 7) (fromReset 0x1000040000) := by decide
/-- V3.6: `MSSET 65535`. -/
theorem test_msset_max : nextIs (fun s => s.ms.period = 65535) (fromReset 0x10FFFF0000) := by decide
/-- V4.1: sets the flag only. -/
theorem test_resyncB : exec .resyncB (v4 false false 3 false) = .next (v4 true false 3 false) := rfl
/-- V4.2: already set, no change. -/
theorem test_resyncB_again : exec .resyncB (v4 true false 3 false) = .next (v4 true false 3 false) := rfl
/-- V4.3: the other flag untouched. -/
theorem test_resyncC : exec .resyncC (v4 true false 3 false) = .next (v4 true true 3 false) := rfl
/-- V4.4: A's cycle start, both requests applied. -/
theorem test_tick_applies_both :
    nextIs (fun s => v4Row s = ((false, false), (0, true), (0, true), (0, true))) (exec .tick (v4 true true 3 false)) := by
  decide
/-- V4.5: only B is reset. -/
theorem test_tick_applies_one :
    nextIs (fun s => v4Row s = ((false, false), (0, true), (0, true), (7, false))) (exec .tick (v4 true false 3 false)) := by
  decide
/-- V4.6: a master wrap in which A does not wrap leaves the requests. -/
theorem test_tick_leaves_requests :
    nextIs (fun s => v4Row s = ((true, true), (2, false), (3, false), (7, false))) (exec .tick (v4 true true 1 true)) := by
  decide
/-- V4.7: no requests. -/
theorem test_tick_no_requests :
    nextIs (fun s => v4Row s = ((false, false), (0, true), (3, false), (7, false)))
      (exec .tick (v4 false false 3 false)) := by decide
/-- V4.11: a generator with `period = MAXW` ends at 0 by overflow, low. -/
theorem test_tick_resets_maximal_period :
    nextIs (fun s => s.pgB.pos = 0 ∧ s.pgB.out = false ∧ s.ms.resetB = false)
      (exec .tick { v4 true false 3 false with pgB := gen 65535 0 2 false }) := by decide
/-- V4.12: a generator with `period = 0`. -/
theorem test_tick_resets_zero_period :
    nextIs (fun s => s.pgB.pos = 0 ∧ s.pgB.out = true ∧ s.ms.resetB = false)
      (exec .tick { v4 true false 3 false with pgB := gen 0 0 0 false }) := by decide
/-- V4.13: the other reading of D6, under the other value of the switch. -/
theorem test_tick_other_resync_point :
    v4Row ((v4 true true 3 false).clockMaster .afterC) = ((false, false), (0, true), (5, true), (7, true)) := by decide
/-- V3.8: a tick that is not a master wrap changes only `MS.pos`. -/
theorem test_tick_no_wrap :
    exec .tick { v4 true true 3 false with ms := ⟨2, 0, true, true⟩ } =
      .next { v4 true true 3 false with ms := ⟨2, 1, true, true⟩ } := rfl
/-- V3.3, V3.4, V3.5: `MS.pos` beyond the period, at it, and at `MAXW`. -/
theorem test_master_wraps :
    Master.wraps ⟨2, 9, false, false⟩ = true ∧ Master.wraps ⟨2, 2, false, false⟩ = true ∧
      Master.wraps ⟨2, 65535, false, false⟩ = false ∧ Master.wraps ⟨65535, 65534, false, false⟩ = false := by decide

/-! The generators -/

/-- V1.1: `PGSET.A 48, 100`, half wins. -/
theorem test_pgsetA : nextIs (fun s => s.pgA.period = 47 ∧ s.pgA.duty = 24) (fromReset 0x2000300064) := by decide
/-- V1.1: `ticks = 0`, the violation recorded. -/
theorem test_pgsetA_zero :
    nextIs (fun s => s.pgA.period = 65535 ∧ s.pgA.duty = 0 ∧ s.violation) (fromReset 0x2000000005) := by decide
/-- V1.2: `PGSET.B 24, 20` writes nothing else. -/
theorem test_pgsetB :
    exec (.pgsetB 24 20) { v4 true false 3 false with pgB := gen 47 20 17 false } =
      .next { v4 true false 3 false with pgB := gen 23 12 17 false } := rfl
/-- V1.1, for C: the largest operands. -/
theorem test_pgsetC : nextIs (fun s => s.pgC.period = 65534 ∧ s.pgC.duty = 32767) (fromReset 0x28FFFFFFFF) := by decide
/-- V1.1: odd `ticks`, and `ticks = 1`. -/
theorem test_pgset_operands :
    pgDutyOf 3 7 = 1 ∧ pgPeriodOf 3 = 2 ∧ pgDutyOf 1 5 = 0 ∧ pgPeriodOf 1 = 0 ∧ pgDutyOf 2 0 = 0 := by decide
/-- V2.3: pulse end, cycle start, plain increment. -/
theorem test_clock_ordinary :
    (gen 47 20 19 true).clock = gen 47 20 20 false ∧ (gen 47 20 47 false).clock = gen 47 20 0 true ∧
      (gen 7 4 2 true).clock = gen 7 4 3 true ∧ (gen 47 20 19 true).wraps = false ∧ (gen 47 20 47 false).wraps = true := by
  decide
/-- V2.3: both conditions, `pos` beyond `period`, and `pos = MAXW`. -/
theorem test_clock_corners :
    (gen 3 4 3 false).clock = gen 3 4 0 true ∧ (gen 3 2 9 false).clock = gen 3 2 0 true ∧
      (gen 3 2 65535 true).clock = gen 3 2 0 true ∧ (gen 3 2 65535 true).wraps = false ∧
      (gen 3 0 65535 true).clock = gen 3 0 0 false := by decide
/-- V2.9: after the violation the output falls when `pos` passes from `MAXW` to 0. -/
theorem test_clock_degenerate :
    PulseGen.clocked 1 (gen 65535 0 65534 true) = gen 65535 0 65535 true ∧
      PulseGen.clocked 2 (gen 65535 0 65534 true) = gen 65535 0 0 false ∧
      PulseGen.clocked 3 (gen 65535 0 65534 true) = gen 65535 0 1 false := by decide
/-- V4.8: `PGRST.A` asserts A and applies nothing. -/
theorem test_pgrstA : exec .pgrstA (v4 true false 3 false) = .next (v4 true false 3 true) := rfl
/-- V5.1. -/
theorem test_pgrstB :
    nextIs (fun s => s.pgB = gen 47 20 47 true)
      (exec .pgrstB { v4 false false 3 false with pgB := gen 47 20 17 false }) := by decide
/-- V5.3. -/
theorem test_pgrstC :
    nextIs (fun s => s.pgC = gen 65535 0 65535 true)
      (exec .pgrstC { v4 false false 3 false with pgC := gen 65535 0 9 false }) := by decide
/-- V4.9: A turned on by hand applies nothing. -/
theorem test_pgtogA : exec .pgtogA (v4 true false 3 false) = .next (v4 true false 3 true) := rfl
/-- R68, for B: `5/3/2/1` goes low. -/
theorem test_pgtogB :
    exec .pgtogB (v4 true false 3 false) = .next { v4 true false 3 false with pgB := gen 5 3 2 false } := rfl
/-- V5.5. -/
theorem test_pgtogC :
    exec .pgtogC { v4 false false 3 false with pgC := gen 3 2 0 false } =
      .next { v4 false false 3 false with pgC := gen 3 2 0 true } := rfl
/-- V5.6, and P4 event 1. -/
theorem test_pgqryA :
    exec .pgqryA { v4 false false 3 false with pgA := gen 7 4 5 false } =
      .next { v4 false false 3 false with pgA := gen 7 4 5 false, rsp := true } := rfl
/-- V5.8. -/
theorem test_pgqryB :
    nextIs (fun s => s.rsp) (exec .pgqryB { v4 false false 3 false with pgB := gen 7 1 3 false }) := by decide
/-- V5.9. -/
theorem test_pgqryC :
    nextIs (fun s => !s.rsp)
      (exec .pgqryC { v4 false false 3 false with pgC := gen 3 2 1 true, rsp := true }) := by decide

/-! Events, observation, the host's side -/

/-- R49: the trace word is a pulse on the tick port; presented as a command it would be refused. -/
theorem test_tick_word :
    fromReset 0x7000000000 = exec .tick State.reset ∧
      step (State.reset.present [.cmd 0x7000000000]) = .refused (.reservedEncoding 0x7000000000) := ⟨rfl, rfl⟩
/-- R48: a reserved word is refused. -/
theorem test_reserved_refused : fromReset 0x3000000000 = .refused (.reservedEncoding 0x3000000000) := rfl
/-- R25, V5.10: what is seen of a query and of the tick after it, from V4.7. -/
theorem test_observations :
    observations 2 ((v4 false false 3 false).present [.cmd 0x6000000000, .tick]) =
      [⟨(false, true, false), some true⟩, ⟨(true, false, false), none⟩] := by decide
/-- R53, R103, P3: the control cycle's commands; `c` changed and `b` did not. -/
theorem test_control_cycle :
    ctrlCycle params ⟨5, 4⟩ 5 3 250 =
      .ok (⟨5, 3⟩, [.resyncC, .msset 4, .pgsetA 48 25, .pgsetB 48 25, .pgsetC 24 25]) := by rfl
/-- R34: ticks may fall among the host's commands, which keep their order. -/
theorem test_interleaves :
    interleaves [.cmd 1, .cmd 2] [.tick, .cmd 1, .tick, .tick, .cmd 2] = true ∧
      interleaves [.cmd 1, .cmd 2] [.cmd 2, .tick, .cmd 1] = false := by decide

/-- The examples of R52. -/
theorem test_listing_commands :
    readLine "MSSET 4".toList = some (.instr (.msset 4)) ∧
      readLine "PGSET.B 48, 25".toList = some (.instr (.pgsetB 48 25)) ∧
      readLine "RESYNC.C".toList = some (.instr .resyncC) ∧ readLine "PGRST.A".toList = some (.instr .pgrstA) ∧
      readLine "PGTOG.C".toList = some (.instr .pgtogC) ∧ readLine "PGQRY.B".toList = some (.instr .pgqryB) := by
  decide
/-- R52: hexadecimal, comments, upper case only; R53: `TICK*n`. -/
theorem test_listing_forms :
    readLine "PGSET.A 0x30, 20 ; comment".toList = some (.instr (.pgsetA 48 20)) ∧
      readLine "; nothing".toList = some .blank ∧ readLine "msset 4".toList = none ∧
      readLine "TICK*12".toList = some (.ticks 12) ∧ readLine "MSSET 65536".toList = none := by decide

/-! Witnesses: for every obligation with hypotheses, values that meet them together -/

/-- A machine at a common cycle start: `Aligned`, in cycle, every duty within its period; B's request can be pending. -/
def aligned : State := mach ⟨1, 0, false, false⟩ (gen 3 2 0 true) (gen 1 1 0 true) (gen 7 3 0 true)

theorem meets_LegalWordsAreTheListedOnes :
    (0x7000000000 : CmdWord).toNat / 2 ^ 36 = 7 ∧ (0x7FFFFFFFFF : CmdWord).toNat / 2 ^ 36 = 7 ∧
      decodeCommand 0x28FFFFFFFF = some (.pgsetC 65535 65535) ∧ decode 0x7000000000 ≠ none := by decide

theorem meets_ReservedCommandIsRefused :
    (aligned.present [.cmd 0x7000000000]).inputs = [.cmd 0x7000000000] ∧ decodeCommand 0x7000000000 = none ∧
      decodeCommand 0x0000000000 = none ∧ decodeCommand 0xFFFFFFFFFF = none := by decide

theorem meets_StepRunsDecodedInstruction :
    (aligned.present [.cmd 0x6800000000]).inputs = [.cmd 0x6800000000] ∧ decodeCommand 0x6800000000 = some .pgqryC ∧
      (aligned.present [.tick]).inputs = [.tick] ∧ decodeTableWord 40 0x7000000000 = some .tick := by decide

theorem meets_NoEventNoChange : State.reset.inputs = [] := by decide

theorem meets_EveryEventCompletes :
    (aligned.present [.cmd 0x10FFFF0000]).inputs = [.cmd 0x10FFFF0000] ∧ commandWordWf 0x10FFFF0000 = true ∧
      (aligned.present [.tick]).inputs = [.tick] ∧ (aligned.present [.reset]).inputs = [.reset] := by decide

/-- For `ResetAssertsOutputs` and `ResetDrawsEveryOtherRegister`. -/
theorem meets_reset_statements : (aligned.present [.reset, .tick]).inputs = .reset :: [.tick] := by decide

/-- For `PgsetSetsPeriodAndDuty`: the least and the greatest `ticks` of its last clause. -/
theorem meets_PgsetSetsPeriodAndDuty : 1 ≤ (1 : Word).toNat ∧ 1 ≤ (65535 : Word).toNat := by decide

/-- For `ResyncSetsOnlyItsFlag`: states in which each flag is set already. -/
theorem meets_ResyncSetsOnlyItsFlag : (v4 true true 3 false).ms.resetB = true ∧ (v4 true true 3 false).ms.resetC = true := by
  decide

/-- A query and a command that is none. -/
theorem meets_OnlyQueriesWriteRsp :
    exec .pgqryB aligned = .next (aligned.query .B) ∧ exec .pgtogB aligned = .next (aligned.toggle .B) := ⟨rfl, rfl⟩

/-- An instruction for each of the five alternatives. -/
theorem meets_RepeatedCommands :
    (∃ v, (Instr.msset 65535) = .msset v) ∧ (∃ x u v, (Instr.pgsetC 0 65535) = Instr.pgset x u v) ∧
      (Instr.resyncB = .resyncB ∧ Instr.resyncC = .resyncC) ∧ (∃ x, Instr.pgrstB = Instr.pgrst x) :=
  ⟨⟨65535, rfl⟩, ⟨.C, 0, 65535, rfl⟩, ⟨rfl, rfl⟩, ⟨.B, rfl⟩⟩

/-- At `MS.pos + 1 = MS.period`, and at the overflow of `MS.pos`. -/
theorem meets_TickWithoutMasterWrap :
    (State.read { aligned with ms := ⟨4, 3, false, false⟩ } .msPos + 1) % 2 ^ 16 ≤
        State.read { aligned with ms := ⟨4, 3, false, false⟩ } .msPeriod ∧
      (State.read { aligned with ms := ⟨0, 65535, false, false⟩ } .msPos + 1) % 2 ^ 16 ≤
        State.read { aligned with ms := ⟨0, 65535, false, false⟩ } .msPeriod := by decide

/-- No cycle start of A with B pending; a cycle start of A with C not pending; and A itself, never pending. -/
theorem meets_MasterWrapClocksGenerator :
    ((v4 true true 1 true).read .msPeriod < ((v4 true true 1 true).read .msPos + 1) % 2 ^ 16 ∧
        (v4 true true 1 true).cycleStartOfA = false) ∧
      ((v4 true false 3 false).read .msPeriod < ((v4 true false 3 false).read .msPos + 1) % 2 ^ 16 ∧
        (v4 true false 3 false).ms.pending .C = false ∧ (v4 true false 3 false).ms.pending .A = false) := by decide

/-- The two clauses, on both sides of A's last `pos`; and the greatest period below `MAXW` pending. -/
theorem meets_ResyncAppliedAtCycleStartOfA :
    (v4 true true 3 false).cycleStartOfA = true ∧ (v4 true true 2 false).cycleStartOfA = false ∧
      (v4 true true 3 false).ms.pending .B = true ∧
      State.cycleStartOfA { v4 true true 3 false with pgB := gen 65534 3 2 true } = true ∧
      State.read { v4 true true 3 false with pgB := gen 65534 3 2 true } (.pg .B .period) < MAXW := by decide

theorem meets_OwnershipByContext :
    exec (.msset 4) aligned = .next (aligned.setMasterPeriod 0 4) ∧ contextOf (.msset 4) = .host ∧
      Context.mayWrite (contextOf (.msset 4)) .msPos = false ∧
      exec .tick aligned = .next (aligned.clockMaster .afterA) ∧
      Context.mayWrite (contextOf .tick) .msPeriod = false := ⟨rfl, rfl, rfl, rfl, rfl⟩

/-- A pending request in a step that keeps it, and in the step that applies it. -/
theorem meets_RequestsAreNeverLost :
    nextIs (fun t => t.ms.pending .B) (step ((v4 true false 2 false).present [.tick])) = true ∧
      nextIs (fun t => !t.ms.pending .B) (step ((v4 true false 3 false).present [.tick])) = true ∧
      ((v4 true false 3 false).present [.tick]).ms.pending .B = true := by decide

/-- A low output of A with a request pending. -/
theorem meets_HostAssertionOfAAppliesNothing :
    (v4 true false 3 false).pgA.out = false ∧ (v4 true false 3 false).ms.pending .B = true := by decide

/-- Two states that agree on what A reads and on nothing of B, C, the flags and `rsp`. -/
theorem meets_GeneratorAIsIsolated :
    aligned.viewOfA = State.viewOfA { aligned with ms := ⟨1, 0, true, true⟩, pgB := gen 5 3 2 false, rsp := true } ∧
      aligned.resets =
        State.resets { aligned with ms := ⟨1, 0, true, true⟩, pgB := gen 5 3 2 false, rsp := true } := by decide

/-- A step that records a violation, and one that records none. -/
theorem meets_ViolationMarkIsStickyAndExact :
    nextIs (fun t => t.violation) (step (aligned.present [.cmd 0x2400000005])) = true ∧
      nextIs (fun t => !t.violation) (step (aligned.present [.cmd 0x2400010005])) = true := by decide

theorem meets_PairsStayAccountedFor :
    aligned.PairsAccountedFor ∧ nextIs (fun _ => true) (step (aligned.present [.tick])) = true := by
  refine ⟨fun x => .inl ?_, by decide⟩
  cases x
  · exact ⟨4, 2, by decide⟩
  · exact ⟨2, 1, by decide⟩
  · exact ⟨8, 3, by decide⟩

/-- Also with a `PGSET.A 0, 5` to come. -/
theorem meets_DutyStaysWithinPeriod :
    (aligned.present [.cmd 0x2000000005, .tick]).DutiesFit ∧
      nextIs (fun _ => true) (step (aligned.present [.cmd 0x2000000005, .tick])) = true := by
  refine ⟨⟨by decide, fun x => ?_⟩, by decide⟩
  cases x
  · show (2 : Word) ≤ 3; decide
  · show (1 : Word) ≤ 1; decide
  · show (3 : Word) ≤ 7; decide

/-- With a tick and a `PGRST.C` to come. -/
theorem meets_CountersStayInCycle :
    (aligned.present [.tick, .cmd 0x4800000000]).CountersInCycle ∧
      nextIs (fun _ => true) (step (aligned.present [.tick, .cmd 0x4800000000])) = true := by
  refine ⟨⟨by decide, ⟨by decide, by decide⟩, fun x => ?_⟩, by decide⟩
  cases x
  all_goals exact ⟨by decide, by decide⟩

theorem meets_MasterWrapRestoresPhases : (v4 false false 3 false).ms.wraps = true := by decide

/-- The least duty, and a duty equal to the period. -/
theorem meets_SteadyWaveformOfAGenerator :
    (gen 47 1 0 true).FreshlyReset ∧ (gen 47 1 0 true).Pulsing ∧ (gen 1 1 0 true).FreshlyReset ∧ (gen 1 1 0 true).Pulsing :=
  ⟨⟨rfl, rfl⟩, ⟨by decide, by decide, by decide⟩, ⟨rfl, rfl⟩, ⟨by decide, by decide, by decide⟩⟩

/-- For `AlignedMachineInClosedForm` and `TicksAreObservedInClosedForm`. -/
theorem meets_AlignedMachineInClosedForm : aligned.Aligned := by
  refine ⟨rfl, by decide, rfl, rfl, fun x => ?_⟩
  cases x
  all_goals exact ⟨⟨rfl, rfl⟩, ⟨by decide, by decide, by decide⟩⟩

/-- Before a tick that is no master wrap (`n = 0`) and one that is (`n = 1`); also at the greatest period below `MAXW`. -/
theorem meets_MasterGating :
    aligned.read .msPeriod < MAXW ∧ aligned.read .msPos ≤ aligned.read .msPeriod ∧ aligned.ms.resetB = false ∧ aligned.ms.resetC = false ∧
      nextIs (fun t => !t.ms.wraps) (runTicks 0 aligned) = true ∧ nextIs (fun t => t.ms.wraps) (runTicks 1 aligned) = true ∧
      State.read { aligned with ms := ⟨65534, 65534, false, false⟩ } .msPeriod < MAXW ∧
      State.read { aligned with ms := ⟨65534, 65534, false, false⟩ } .msPos ≤
        State.read { aligned with ms := ⟨65534, 65534, false, false⟩ } .msPeriod := by decide

/-- The clauses at their ends: `MS.pos = MAXW`, `MS.pos = MAXW - 1`, and `MS.pos = P`. -/
theorem meets_FirstMasterWrapIsBounded :
    State.read { aligned with ms := ⟨2, 65535, false, false⟩ } .msPeriod < MAXW ∧
      State.read { aligned with ms := ⟨2, 65535, false, false⟩ } .msPos = MAXW ∧
      State.read { aligned with ms := ⟨2, 65534, false, false⟩ } .msPos < MAXW ∧
      State.read { aligned with ms := ⟨2, 2, false, false⟩ } .msPeriod ≤
        State.read { aligned with ms := ⟨2, 2, false, false⟩ } .msPos ∧
      State.read { aligned with ms := ⟨65535, 65533, false, false⟩ } .msPeriod = MAXW := by decide

theorem meets_MaximalMasterPeriodStopsGenerators :
    State.read { aligned with ms := ⟨65535, 65533, false, false⟩ } .msPeriod = MAXW := by decide

theorem meets_ResyncLatencyBound :
    (v4 true false 1 true).ms.InCycle ∧ (v4 true false 1 true).pgA.InCycle ∧ (v4 true false 1 true).ms.pending .B = true ∧
      (v4 true false 1 true).read (.pg .B .period) < MAXW :=
  ⟨⟨by decide, by decide⟩, ⟨by decide, by decide⟩, rfl, by decide⟩

theorem meets_DegenerateGeneratorFallsSilent :
    (gen 65535 0 65534 true).period.toNat = MAXW ∧ (gen 65535 0 65534 true).duty = 0 := by decide

theorem meets_ZeroDutyNeverDeasserts :
    (State.pg { aligned with pgB := gen 3 0 0 true } .B).duty = 0 ∧ (State.pg { aligned with pgB := gen 3 0 0 true } .B).InCycle ∧
      State.outPort { aligned with pgB := gen 3 0 0 true } .B = true :=
  ⟨rfl, ⟨by decide, by decide⟩, rfl⟩

theorem meets_ZeroPeriodStartsEverySubStep : (gen 0 0 0 false).period = 0 ∧ (gen 0 0 0 false).pos = 0 := by decide

/-- The operands of P1, and the greatest `tm` with the least `ticks`. -/
theorem meets_BootNormalisesTheMachine :
    ((1 : Word).toNat < MAXW ∧ (4 : Word) ≠ 0 ∧ (2 : Word) ≠ 0 ∧ (8 : Word) ≠ 0) ∧
      (65534 : Word).toNat < MAXW ∧ (1 : Word) ≠ 0 := by decide

/-- P4 event 2: `PGSET.A 4, 2` with A at `pos = 5`; and at the least difference, `pos + 1 = ticks`. -/
theorem meets_ShorterPeriodCutsTheCycle :
    1 ≤ (4 : Word).toNat ∧
      (4 : Word).toNat ≤ State.read { v4 false false 3 false with pgA := gen 7 4 5 false } (.pg .A .pos) + 1 ∧
      State.read { v4 false false 3 false with pgA := gen 7 4 5 false } (.pg .A .pos) < MAXW ∧
      (v4 false false 3 false).ms.wraps = true := by decide

/-- P4 event 4: B `7/1` at `pos = 2`, high; and `pos = duty`, and `pos = period`. -/
theorem meets_MissedPulseEndStretchesTheHighPhase :
    ((gen 7 1 2 true).Pulsing ∧ (gen 7 1 2 true).out = true ∧ (gen 7 1 2 true).duty ≤ (gen 7 1 2 true).pos ∧
        (gen 7 1 2 true).pos ≤ (gen 7 1 2 true).period) ∧
      (gen 7 7 7 true).Pulsing ∧ (gen 7 7 7 true).duty ≤ (gen 7 7 7 true).pos ∧
      (gen 7 7 7 true).pos ≤ (gen 7 7 7 true).period :=
  ⟨⟨⟨by decide, by decide, by decide⟩, rfl, by decide, by decide⟩, ⟨by decide, by decide, by decide⟩, by decide, by decide⟩

theorem meets_ToggledLowUntilCycleStart : (gen 3 2 0 true).InCycle ∧ (gen 3 2 0 true).out = true :=
  ⟨⟨by decide, by decide⟩, rfl⟩

/-- Each clause at its ends: the greatest index, `f = 0`, the least `f` with a quotient of zero, the least index outside. -/
theorem meets_ControlCycleRefusesDivisionByZero :
    ctrlCycle params ⟨0, 0⟩ 10 10 0 = .error .zeroFrequency ∧
      ctrlCycle params ⟨0, 0⟩ 0 0 1001 = .error .zeroMasterPeriod ∧ params.freqTicks < 1001 ∧
      ctrlCycle params ⟨0, 0⟩ 11 0 250 = .error .indexOutOfRange ∧
      ctrlCycle params ⟨0, 0⟩ 0 11 250 = .error .indexOutOfRange := ⟨rfl, rfl, by decide, rfl, rfl⟩

/-- The ends of the frequency range. -/
theorem meets_ControlCycleExpansion :
    params.wf = true ∧ params.inRange 100 = true ∧ params.inRange 250 = true ∧ (0 : Nat) < 11 ∧ 10 < 11 := by decide

/-- One control cycle with ticks among its commands. -/
theorem meets_ControlCycleUnderEveryInterleaving :
    params.wf = true ∧ params.inRange 250 = true ∧
      ctrlCycle params ⟨5, 4⟩ 5 3 250 =
        .ok (⟨5, 3⟩, [.resyncC, .msset 4, .pgsetA 48 25, .pgsetB 48 25, .pgsetC 24 25]) ∧
      interleaves (eventsOf [.resyncC, .msset 4, .pgsetA 48 25, .pgsetB 48 25, .pgsetC 24 25])
        [.tick, .cmd 0x3800000000, .cmd 0x1000040000, .tick, .cmd 0x2000300019, .cmd 0x2400300019, .tick, .tick,
          .cmd 0x2800180019] = true := ⟨by decide, by decide, rfl, by decide⟩

end Sys2Proof.Tests
end

namespace Sys2Proof

/-! ## The decoder on an instruction's own word, and on the trace word of `TICK` -/

/-- The encoder's word decodes to the instruction it came from (R49, R50). -/
@[simp] theorem decode_encode (i : Instr) : decode (encode i) = some i := by
  cases i
  case msset t => simp [encode, decode]
  case pgsetA t c => simp [encode, decode, Gen.ofSel, Instr.pgset]
  case pgsetB t c => simp [encode, decode, Gen.ofSel, Instr.pgset]
  case pgsetC t c => simp [encode, decode, Gen.ofSel, Instr.pgset]
  all_goals decide

/-- The top byte is `op`, `sel` and `rsv` side by side (R41). -/
theorem topByte_of_fields (w : CmdWord) : opField w ++ selField w ++ rsvField w = w.extractLsb' 32 8 := by
  simp only [opField, selField, rsvField]
  rw [BitVec.extractLsb'_append_extractLsb'_eq_extractLsb' (by omega)]
  exact BitVec.extractLsb'_append_extractLsb'_eq_extractLsb' (by omega)

/-- The only word with `op = 7` that decodes is the trace word of `TICK` (R47 (c), (e), (f), R49). -/
theorem eq_tickWord_of_decode {w : CmdWord} {i : Instr} (hop : opField w = 7) (h : decode w = some i) :
    w = 0x7000000000 := by
  simp only [decode, hop, BitVec.reduceToNat, Option.ite_none_left_eq_some, Option.ite_none_right_eq_some, not_or,
    not_not] at h
  obtain ⟨⟨hrsv, -⟩, ⟨hsel, hticks, hcap⟩, -⟩ := h
  rw [← word_of_fields w, ← topByte_of_fields, hop, hsel, hrsv, hticks, hcap]
  decide

/-- Every other word that decodes in a trace decodes alike on the command port (R47 (g)). -/
theorem decodeCommand_of_decode {w : CmdWord} {i : Instr} (hw : w ≠ 0x7000000000) (h : decode w = some i) :
    decodeCommand w = some i := by
  rw [decodeCommand, if_neg fun hop => hw (eq_tickWord_of_decode hop h), h]

end Sys2Proof

namespace Sys2Proof.Machine

/-! ## The event of a word runs the instruction the word decodes to -/

theorem applyEvent_cmd {w : CmdWord} {i : Instr} (h : decodeCommand w = some i) (s : State) :
    applyEvent (.cmd w) s = exec i s := by
  simp only [applyEvent, applyCommand, h]

/-- Whichever port R49 puts a trace word on, its instruction is what runs there. -/
theorem applyEvent_eventOfWord {w : CmdWord} {i : Instr} (h : decode w = some i) (s : State) :
    applyEvent (eventOfWord w) s = exec i s := by
  by_cases hw : w = 0x7000000000
  · have htick : decode 0x7000000000 = some .tick := by decide
    obtain rfl : i = .tick := Option.some.inj (h.symm.trans (hw ▸ htick))
    rw [eventOfWord, if_pos hw]
    rfl
  · rw [eventOfWord, if_neg hw]
    exact applyEvent_cmd (decodeCommand_of_decode hw h) s

theorem decode_tableWord_of_decodeTableWord {nbits w : Nat} {i : Instr} (h : decodeTableWord nbits w = some i) :
    decode (tableWord nbits w) = some i :=
  (Option.ite_none_right_eq_some.1 h).2

end Sys2Proof.Machine

namespace Sys2Proof.Proofs

open Sys2Proof.Machine

/-- Settles O6: the step applies the event at the head, and each event's meaning is `exec` of its word's instruction. -/
theorem stepRunsDecodedInstruction : Obligations.StepRunsDecodedInstruction := by
  unfold Obligations.StepRunsDecodedInstruction
  refine ⟨?command, ?tick, ?tableWord, ?ownEvent⟩
  case command =>
    intro s w i rest hs hd
    rw [step_of_event hs, applyEvent_cmd hd]
  case tick =>
    intro s rest hs
    exact step_of_event hs
  case tableWord =>
    intro s nbits w i hd
    rw [State.withFetchWord, step_present]
    exact applyEvent_eventOfWord (decode_tableWord_of_decodeTableWord hd) s
  case ownEvent =>
    intro s i
    rw [step_present]
    exact applyEvent_eventOfWord (decode_encode i) s

/-- Settles O7: with no event at the head the step takes none away and applies none. -/
theorem noEventNoChange : Obligations.NoEventNoChange := by
  unfold Obligations.NoEventNoChange
  intro s hs
  exact step_of_no_event hs

end Sys2Proof.Proofs

namespace Sys2Proof

/-! ## The `op` field of an instruction that was decoded -/

theorem exists_gen_of_decodePlain {w : CmdWord} {command : Gen → Option Instr} {i : Instr}
    (h : decodePlain w command = some i) : ∃ x, command x = some i := by
  obtain ⟨-, h⟩ := Option.ite_none_right_eq_some.1 h
  obtain ⟨x, -, hx⟩ := Option.bind_eq_some_iff.1 h
  exact ⟨x, hx⟩

/-- Decoding reads `op` as the encoder writes it (R49, R50). -/
theorem opField_of_decode {w : CmdWord} {i : Instr} (h : decode w = some i) : opField w = opField (encode i) := by
  have hop (n : Nat) (hn : (opField w).toNat = n) : opField w = BitVec.ofNat 4 n := by
    rw [← hn, BitVec.ofNat_toNat, BitVec.setWidth_eq]
  simp only [decode, Option.ite_none_left_eq_some] at h
  obtain ⟨-, h⟩ := h
  split at h
  case h_1 hn =>
    obtain ⟨-, rfl⟩ : _ ∧ _ = i := by simpa using h
    simpa [encode] using hop _ hn
  case h_2 hn =>
    obtain ⟨x, -, rfl⟩ := Option.map_eq_some_iff.1 h
    cases x <;> simpa [Instr.pgset, encode] using hop _ hn
  case h_3 hn =>
    obtain ⟨x, hx⟩ := exists_gen_of_decodePlain h
    cases x <;> cases hx <;> exact hop _ hn
  case h_4 hn =>
    obtain ⟨x, hx⟩ := exists_gen_of_decodePlain h
    cases x <;> cases hx <;> exact hop _ hn
  case h_5 hn =>
    obtain ⟨x, hx⟩ := exists_gen_of_decodePlain h
    cases x <;> cases hx <;> exact hop _ hn
  case h_6 hn =>
    obtain ⟨x, hx⟩ := exists_gen_of_decodePlain h
    cases x <;> cases hx <;> exact hop _ hn
  case h_7 hn =>
    obtain ⟨-, rfl⟩ : _ ∧ Instr.tick = i := by simpa using h
    exact hop _ hn
  case h_8 => cases h

theorem decode_of_decodeCommand {w : CmdWord} {i : Instr} (h : decodeCommand w = some i) : decode w = some i :=
  (Option.ite_none_left_eq_some.1 h).2

end Sys2Proof

namespace Sys2Proof.Machine

/-! ## The instructions by kind -/

@[simp] theorem exec_pgset (x : Gen) (u v : Word) (s : State) :
    exec (Instr.pgset x u v) s = .next (s.setPeriod x u v) := by cases x <;> rfl

@[simp] theorem exec_pgrst (x : Gen) (s : State) : exec (Instr.pgrst x) s = .next (s.resetPhase x) := by cases x <;> rfl

@[simp] theorem exec_pgtog (x : Gen) (s : State) : exec (Instr.pgtog x) s = .next (s.toggle x) := by cases x <;> rfl

@[simp] theorem exec_pgqry (x : Gen) (s : State) : exec (Instr.pgqry x) s = .next (s.query x) := by cases x <;> rfl

@[simp] theorem exec_tick (s : State) : exec .tick s = .next (s.clockMaster .afterA) := rfl

/-- What an instruction that answers a next state has done, by kind. -/
theorem exec_cases {i : Instr} {s t : State} (h : exec i s = .next t) :
    (∃ v, i = .msset v ∧ t = s.setMasterPeriod Config.msPeriodBias v) ∨
    (∃ x u v, i = Instr.pgset x u v ∧ t = s.setPeriod x u v) ∨
    (i = .resyncB ∧ t = { s with ms := s.ms.requestB }) ∨
    (i = .resyncC ∧ t = { s with ms := s.ms.requestC }) ∨
    (∃ x, i = Instr.pgrst x ∧ t = s.resetPhase x) ∨
    (∃ x, i = Instr.pgtog x ∧ t = s.toggle x) ∨
    (∃ x, i = Instr.pgqry x ∧ t = s.query x) ∨
    (i = .tick ∧ t = s.clockMaster .afterA) := by
  cases i <;> cases h
  case msset v => exact .inl ⟨v, rfl, rfl⟩
  case pgsetA u v => exact .inr (.inl ⟨.A, u, v, rfl, rfl⟩)
  case pgsetB u v => exact .inr (.inl ⟨.B, u, v, rfl, rfl⟩)
  case pgsetC u v => exact .inr (.inl ⟨.C, u, v, rfl, rfl⟩)
  case resyncB => exact .inr (.inr (.inl ⟨rfl, rfl⟩))
  case resyncC => exact .inr (.inr (.inr (.inl ⟨rfl, rfl⟩)))
  case pgrstA => exact .inr (.inr (.inr (.inr (.inl ⟨.A, rfl, rfl⟩))))
  case pgrstB => exact .inr (.inr (.inr (.inr (.inl ⟨.B, rfl, rfl⟩))))
  case pgrstC => exact .inr (.inr (.inr (.inr (.inl ⟨.C, rfl, rfl⟩))))
  case pgtogA => exact .inr (.inr (.inr (.inr (.inr (.inl ⟨.A, rfl, rfl⟩)))))
  case pgtogB => exact .inr (.inr (.inr (.inr (.inr (.inl ⟨.B, rfl, rfl⟩)))))
  case pgtogC => exact .inr (.inr (.inr (.inr (.inr (.inl ⟨.C, rfl, rfl⟩)))))
  case pgqryA => exact .inr (.inr (.inr (.inr (.inr (.inr (.inl ⟨.A, rfl, rfl⟩))))))
  case pgqryB => exact .inr (.inr (.inr (.inr (.inr (.inr (.inl ⟨.B, rfl, rfl⟩))))))
  case pgqryC => exact .inr (.inr (.inr (.inr (.inr (.inr (.inl ⟨.C, rfl, rfl⟩))))))
  case tick => exact .inr (.inr (.inr (.inr (.inr (.inr (.inr ⟨rfl, rfl⟩))))))

/-! ## What each operation on the machine leaves -/

@[simp] theorem State.setMasterPeriod_ms (s : State) (bias v : Word) :
    (s.setMasterPeriod bias v).ms = { s.ms with period := msPeriodOf bias v } := rfl
@[simp] theorem State.setMasterPeriod_pg (s : State) (bias v : Word) (x : Gen) :
    (s.setMasterPeriod bias v).pg x = s.pg x := s.pg_withMs _ x
@[simp] theorem State.setMasterPeriod_inputs (s : State) (bias v : Word) :
    (s.setMasterPeriod bias v).inputs = s.inputs := rfl
@[simp] theorem State.setPeriod_ms (s : State) (x : Gen) (u v : Word) : (s.setPeriod x u v).ms = s.ms := s.setPg_ms x _
@[simp] theorem State.setPeriod_inputs (s : State) (x : Gen) (u v : Word) :
    (s.setPeriod x u v).inputs = s.inputs := s.setPg_inputs x _
@[simp] theorem State.resetPhase_ms (s : State) (x : Gen) : (s.resetPhase x).ms = s.ms := s.setPg_ms x _
@[simp] theorem State.resetPhase_inputs (s : State) (x : Gen) : (s.resetPhase x).inputs = s.inputs := s.setPg_inputs x _
@[simp] theorem State.toggle_ms (s : State) (x : Gen) : (s.toggle x).ms = s.ms := s.setPg_ms x _
@[simp] theorem State.toggle_inputs (s : State) (x : Gen) : (s.toggle x).inputs = s.inputs := s.setPg_inputs x _
@[simp] theorem State.query_ms (s : State) (x : Gen) : (s.query x).ms = s.ms := rfl
@[simp] theorem State.query_pg (s : State) (x y : Gen) : (s.query x).pg y = s.pg y := s.pg_withRsp _ y
@[simp] theorem State.query_inputs (s : State) (x : Gen) : (s.query x).inputs = s.inputs := rfl
@[simp] theorem State.query_rsp (s : State) (x : Gen) : (s.query x).rsp = !(s.pg x).out := rfl

/-- A generator after one of the three is replaced: it was that one, or it stays. -/
theorem State.pg_setPg_same_or (s : State) (x y : Gen) (g : PulseGen) :
    (y = x ∧ (s.setPg x g).pg y = g) ∨ (s.setPg x g).pg y = s.pg y := by
  rw [State.pg_setPg_cases]
  split
  · exact .inl ⟨‹_›, rfl⟩
  · exact .inr rfl

/-! ## What a `TICK` leaves of each part (R85, R87, R92) -/

theorem afterPending_cases (s : State) (x : Gen) :
    afterPending s x = s.pg x ∨ afterPending s x = (s.pg x).resetPhase := by
  cases x with
  | A => exact .inl rfl
  | B => cases h : s.ms.resetB <;> simp [afterPending, h]
  | C => cases h : s.ms.resetC <;> simp [afterPending, h]

theorem State.clockMaster_pg_of_not_wraps {s : State} (h : s.ms.wraps = false) (x : Gen) :
    (s.clockMaster .afterA).pg x = s.pg x := by
  obtain ⟨-, e⟩ | ⟨hw, -⟩ | ⟨hw, -⟩ := s.clockMaster_cases
  · rw [e, State.pg_withMs]
  · exact absurd h (by simp [hw])
  · exact absurd h (by simp [hw])

/-- A master wrap clocks every generator, a phase reset before it or not (R85, R86, R88). -/
theorem State.clockMaster_pg_of_wraps {s : State} (h : s.ms.wraps = true) (x : Gen) :
    (s.clockMaster .afterA).pg x = (s.pg x).clock ∨ (s.clockMaster .afterA).pg x = (s.pg x).resetPhase.clock := by
  obtain ⟨hw, -⟩ | ⟨-, -, e⟩ | ⟨-, ha, e⟩ := s.clockMaster_cases
  · exact absurd h (by simp [hw])
  · rw [e]
    exact .inl (by cases x <;> rfl)
  · rw [e]
    cases x with
    | A => exact .inl (PulseGen.clock_of_wraps ha).symm
    | B => exact (afterPending_cases s .B).imp (congrArg PulseGen.clock) (congrArg PulseGen.clock)
    | C => exact (afterPending_cases s .C).imp (congrArg PulseGen.clock) (congrArg PulseGen.clock)

theorem State.clockMaster_pg_cases (s : State) (x : Gen) :
    (s.clockMaster .afterA).pg x = s.pg x ∨ (s.clockMaster .afterA).pg x = (s.pg x).clock ∨
      (s.clockMaster .afterA).pg x = (s.pg x).resetPhase.clock := by
  cases h : s.ms.wraps
  · exact .inl (State.clockMaster_pg_of_not_wraps h x)
  · exact .inr (State.clockMaster_pg_of_wraps h x)

@[simp] theorem State.clockMaster_ms_period (s : State) : (s.clockMaster .afterA).ms.period = s.ms.period := by
  obtain ⟨-, e⟩ | ⟨-, -, e⟩ | ⟨-, -, e⟩ := s.clockMaster_cases <;> rw [e]

theorem State.clockMaster_ms_pos (s : State) :
    (s.clockMaster .afterA).ms.pos = if s.ms.wraps then 0 else advance s.ms.pos := by
  obtain ⟨h, e⟩ | ⟨h, -, e⟩ | ⟨h, -, e⟩ := s.clockMaster_cases <;> rw [e, h] <;> rfl

/-- A `TICK` raises no flag (R16, R17). -/
theorem State.clockMaster_resetB {s : State} (h : (s.clockMaster .afterA).ms.resetB = true) : s.ms.resetB = true := by
  obtain ⟨-, e⟩ | ⟨-, -, e⟩ | ⟨-, -, e⟩ := s.clockMaster_cases <;> rw [e] at h
  · exact h
  · exact h
  · cases h

theorem State.clockMaster_resetC {s : State} (h : (s.clockMaster .afterA).ms.resetC = true) : s.ms.resetC = true := by
  obtain ⟨-, e⟩ | ⟨-, -, e⟩ | ⟨-, -, e⟩ := s.clockMaster_cases <;> rw [e] at h
  · exact h
  · exact h
  · cases h

@[simp] theorem State.clockMaster_inputs (s : State) : (s.clockMaster .afterA).inputs = s.inputs := by
  obtain ⟨-, e⟩ | ⟨-, -, e⟩ | ⟨-, -, e⟩ := s.clockMaster_cases <;> rw [e]

/-! ## What an instruction can do to the master, to a generator and to the events to come -/

theorem exec_ms_cases {i : Instr} {s t : State} (h : exec i s = .next t) :
    t.ms = s.ms ∨
    (∃ v, i = .msset v ∧ t.ms = { s.ms with period := msPeriodOf Config.msPeriodBias v }) ∨
    (i = .resyncB ∧ t.ms = s.ms.requestB) ∨
    (i = .resyncC ∧ t.ms = s.ms.requestC) ∨
    (i = .tick ∧ t.ms = (s.clockMaster .afterA).ms) := by
  obtain ⟨v, hi, rfl⟩ | ⟨x, u, v, -, rfl⟩ | ⟨hi, rfl⟩ | ⟨hi, rfl⟩ | ⟨x, -, rfl⟩ | ⟨x, -, rfl⟩ | ⟨x, -, rfl⟩ | ⟨hi, rfl⟩ :=
    exec_cases h
  · exact .inr (.inl ⟨v, hi, rfl⟩)
  · exact .inl (s.setPeriod_ms x u v)
  · exact .inr (.inr (.inl ⟨hi, rfl⟩))
  · exact .inr (.inr (.inr (.inl ⟨hi, rfl⟩)))
  · exact .inl (s.resetPhase_ms x)
  · exact .inl (s.toggle_ms x)
  · exact .inl (s.query_ms x)
  · exact .inr (.inr (.inr (.inr ⟨hi, rfl⟩)))

theorem exec_pg_cases {i : Instr} {s t : State} (h : exec i s = .next t) (y : Gen) :
    t.pg y = s.pg y ∨
    (∃ u v, i = Instr.pgset y u v ∧ t.pg y = (s.pg y).setPeriod u v) ∨
    (i = Instr.pgrst y ∧ t.pg y = (s.pg y).resetPhase) ∨
    (i = Instr.pgtog y ∧ t.pg y = (s.pg y).toggle) ∨
    (i = .tick ∧ (t.pg y = (s.pg y).clock ∨ t.pg y = (s.pg y).resetPhase.clock)) := by
  obtain ⟨v, -, rfl⟩ | ⟨x, u, v, hi, rfl⟩ | ⟨-, rfl⟩ | ⟨-, rfl⟩ | ⟨x, hi, rfl⟩ | ⟨x, hi, rfl⟩ | ⟨x, -, rfl⟩ | ⟨hi, rfl⟩ :=
    exec_cases h
  · exact .inl (s.setMasterPeriod_pg _ v y)
  · rw [State.setPeriod, State.noteDegenerate_pg]
    obtain ⟨rfl, e⟩ | e := s.pg_setPg_same_or x y ((s.pg x).setPeriod u v)
    · exact .inr (.inl ⟨u, v, hi, e⟩)
    · exact .inl e
  · exact .inl (s.pg_withMs _ y)
  · exact .inl (s.pg_withMs _ y)
  · obtain ⟨rfl, e⟩ | e := s.pg_setPg_same_or x y (s.pg x).resetPhase
    · exact .inr (.inr (.inl ⟨hi, e⟩))
    · exact .inl e
  · obtain ⟨rfl, e⟩ | e := s.pg_setPg_same_or x y (s.pg x).toggle
    · exact .inr (.inr (.inr (.inl ⟨hi, e⟩)))
    · exact .inl e
  · exact .inl (s.query_pg x y)
  · exact (s.clockMaster_pg_cases y).imp_right fun e => .inr (.inr (.inr ⟨hi, e⟩))

/-- Only `PGSET.x` writes a pair (`period`, `duty`), and what it stores is what its operands give (R21, R61). -/
theorem exec_pair_cases {i : Instr} {s t : State} (h : exec i s = .next t) (x : Gen) :
    ((t.pg x).period = (s.pg x).period ∧ (t.pg x).duty = (s.pg x).duty) ∨
    (∃ u v, i = Instr.pgset x u v ∧ (t.pg x).period = pgPeriodOf u ∧ (t.pg x).duty = pgDutyOf u v) := by
  obtain e | ⟨u, v, hi, e⟩ | ⟨-, e⟩ | ⟨-, e⟩ | ⟨-, e | e⟩ := exec_pg_cases h x
  case inr.inl => exact .inr ⟨u, v, hi, by rw [e]; exact ⟨rfl, rfl⟩⟩
  all_goals exact .inl (by simp [e])

theorem exec_inputs {i : Instr} {s t : State} (h : exec i s = .next t) : t.inputs = s.inputs := by
  obtain ⟨v, -, rfl⟩ | ⟨x, u, v, -, rfl⟩ | ⟨-, rfl⟩ | ⟨-, rfl⟩ | ⟨x, -, rfl⟩ | ⟨x, -, rfl⟩ | ⟨x, -, rfl⟩ | ⟨-, rfl⟩ :=
    exec_cases h <;> simp

/-! ## The instruction of an event, and a step by the event it takes -/

/-- The instruction an event performs; a `RESET` is none, nor is a reserved word (R3, R46, R47). -/
def Event.instr? : Event → Option Instr
  | .reset => none
  | .tick => some .tick
  | .cmd w => decodeCommand w

/-- A step that answers a next state found no event, applied a `RESET`, or ran the instruction of its event. -/
theorem step_cases_of_instr {s t : State} (h : step s = .next t) :
    (s.inputs = [] ∧ t = s) ∨
    (∃ rest, s.inputs = .reset :: rest ∧ t = State.applyReset { s with inputs := rest } (Config.resetDraw s.resets)) ∨
    (∃ e rest i, s.inputs = e :: rest ∧ e.instr? = some i ∧ exec i { s with inputs := rest } = .next t) := by
  obtain h | h | ⟨rest, hs, rfl⟩ | ⟨w, rest, i, hs, hd, he⟩ := step_cases h
  · exact .inl h
  · exact .inr (.inl h)
  · exact .inr (.inr ⟨.tick, rest, .tick, hs, rfl, rfl⟩)
  · exact .inr (.inr ⟨.cmd w, rest, i, hs, hd, he⟩)

/-- A step takes the first event away and adds none (R34). -/
theorem step_inputs {s t : State} (h : step s = .next t) : t.inputs = s.inputs.tail := by
  obtain ⟨hs, rfl⟩ | ⟨rest, hs, rfl⟩ | ⟨e, rest, i, hs, -, he⟩ := step_cases_of_instr h
  · rw [hs]; rfl
  · rw [hs]; rfl
  · rw [hs, exec_inputs he]; rfl

/-- What holds of every event to come holds of every one still to come after a step. -/
theorem forall_inputs_of_step {P : Event → Prop} {s t : State} (h : step s = .next t) (hP : ∀ e ∈ s.inputs, P e) :
    ∀ e ∈ t.inputs, P e :=
  fun e he => hP e (List.mem_of_mem_tail (step_inputs h ▸ he))

/-- An event that keeps the periods performs neither `MSSET` nor `PGSET`. -/
theorem Event.instr?_of_keepsPeriods {e : Event} {i : Instr} (hk : e.keepsPeriods = true) (h : e.instr? = some i) :
    (∀ v, i ≠ .msset v) ∧ ∀ x u v, i ≠ Instr.pgset x u v := by
  cases e with
  | reset => cases h
  | tick =>
    cases h
    exact ⟨fun v => nofun, fun x u v => by cases x <;> nofun⟩
  | cmd w =>
    obtain ⟨h1, h2⟩ := of_decide_eq_true hk
    have hop := opField_of_decode (decode_of_decodeCommand h)
    constructor
    · rintro v rfl
      exact h1 (by simpa [encode] using hop)
    · rintro x u v rfl
      exact h2 (by cases x <;> simpa [Instr.pgset, encode] using hop)

/-! ## The invariants of R18 and R21 through one operation -/

/-- A `PGSET`'s pair has `duty <= period`, `ticks = 0` included (R61, R62). -/
theorem exec_keeps_dutyFits {i : Instr} {s t : State} (h : exec i s = .next t) (x : Gen) (hs : (s.pg x).DutyFits) :
    (t.pg x).DutyFits := by
  unfold PulseGen.DutyFits at hs ⊢
  obtain ⟨hp, hd⟩ | ⟨u, v, -, hp, hd⟩ := exec_pair_cases h x
  · rwa [hp, hd]
  · rw [hp, hd]
    exact pgDutyOf_le_period u v

theorem exec_keeps_pair_accounted {i : Instr} {s t : State} (h : exec i s = .next t) (x : Gen)
    (hs : (s.pg x).Writable ∨ (s.pg x).Drawn x) : (t.pg x).Writable ∨ (t.pg x).Drawn x := by
  obtain ⟨hp, hd⟩ | ⟨u, v, -, hp, hd⟩ := exec_pair_cases h x
  · simpa only [PulseGen.Writable, PulseGen.Drawn, hp, hd] using hs
  · exact .inl ⟨u, v, hp, hd⟩

theorem State.applyReset_drawn (s : State) (n : Nat) (x : Gen) : ((s.applyReset (Config.resetDraw n)).pg x).Drawn x :=
  .inr ⟨n, by cases x <;> rfl⟩

theorem PulseGen.InCycle.resetPhase {g : PulseGen} (h : g.InCycle) : g.resetPhase.InCycle := ⟨BitVec.le_refl _, h.2⟩

theorem PulseGen.InCycle.clock {g : PulseGen} (h : g.InCycle) : g.clock.InCycle :=
  ⟨g.clock_pos_le, by rw [g.clock_period]; exact h.2⟩

/-- Every operation that writes no pair keeps a generator in its cycle, phase resets included (R18 (b), R64, R143). -/
theorem exec_keeps_pg_inCycle {i : Instr} {s t : State} (h : exec i s = .next t) (x : Gen)
    (hi : ∀ u v, i ≠ Instr.pgset x u v) (hs : (s.pg x).InCycle) : (t.pg x).InCycle := by
  obtain e | ⟨u, v, he, -⟩ | ⟨-, e⟩ | ⟨-, e⟩ | ⟨-, e | e⟩ := exec_pg_cases h x
  · rwa [e]
  · exact absurd he (hi u v)
  · rw [e]; exact hs.resetPhase
  · rw [e]; exact hs
  · rw [e]; exact hs.clock
  · rw [e]; exact hs.resetPhase.clock

theorem State.clockMaster_ms_inCycle {s : State} (h : s.ms.period.toNat < MAXW) : (s.clockMaster .afterA).ms.InCycle := by
  refine ⟨?_, by rwa [s.clockMaster_ms_period]⟩
  rw [s.clockMaster_ms_period, s.clockMaster_ms_pos]
  split
  · simp [BitVec.le_def]
  · rename_i hw
    rwa [Master.wraps, exceeds, decide_eq_true_eq, BitVec.not_lt] at hw

theorem exec_keeps_ms_inCycle {i : Instr} {s t : State} (h : exec i s = .next t) (hi : ∀ v, i ≠ .msset v)
    (hs : s.ms.InCycle) : t.ms.InCycle := by
  obtain e | ⟨v, he, -⟩ | ⟨-, e⟩ | ⟨-, e⟩ | ⟨-, e⟩ := exec_ms_cases h
  · rwa [e]
  · exact absurd he (hi v)
  · rw [e]; exact hs
  · rw [e]; exact hs
  · rw [e]; exact State.clockMaster_ms_inCycle hs.2

end Sys2Proof.Machine

namespace Sys2Proof.Proofs

open Sys2Proof.Machine

/-- Settles O30: an instruction leaves a pair or writes a `PGSET`'s, and a `RESET` draws all three. -/
theorem pairsStayAccountedFor : Obligations.PairsStayAccountedFor := by
  unfold Obligations.PairsStayAccountedFor
  intro s t hs h x
  obtain ⟨-, rfl⟩ | ⟨rest, -, rfl⟩ | ⟨e, rest, i, -, -, he⟩ := step_cases_of_instr h
  · exact hs x
  · exact .inr (State.applyReset_drawn _ s.resets x)
  · exact exec_keeps_pair_accounted he x (by simpa using hs x)

/-- Settles O32: with no `RESET` to come a step runs one instruction, and every pair a `PGSET` writes fits. -/
theorem dutyStaysWithinPeriod : Obligations.DutyStaysWithinPeriod := by
  unfold Obligations.DutyStaysWithinPeriod
  rintro s t ⟨hev, hs⟩ h
  refine ⟨forall_inputs_of_step h hev, fun x => ?_⟩
  obtain ⟨-, rfl⟩ | ⟨rest, hr, -⟩ | ⟨e, rest, i, -, -, he⟩ := step_cases_of_instr h
  · exact hs x
  · exact absurd (hev .reset (by simp [hr])) (by decide)
  · exact exec_keeps_dutyFits he x (by simpa using hs x)

/-- Settles O33: the events to come leave only instructions that write no period, and each of those keeps every counter in
its cycle. -/
theorem countersStayInCycle : Obligations.CountersStayInCycle := by
  unfold Obligations.CountersStayInCycle
  rintro s t ⟨hev, hms, hpg⟩ h
  refine ⟨forall_inputs_of_step h hev, ?_⟩
  obtain ⟨-, rfl⟩ | ⟨rest, hr, -⟩ | ⟨e, rest, i, hr, hi, he⟩ := step_cases_of_instr h
  · exact ⟨hms, hpg⟩
  · exact absurd (hev .reset (by simp [hr])) (by decide)
  · obtain ⟨hset, hpgset⟩ := Event.instr?_of_keepsPeriods (hev e (by simp [hr])) hi
    exact ⟨exec_keeps_ms_inCycle he hset hms, fun x => exec_keeps_pg_inCycle he x (hpgset x) (by simpa using hpg x)⟩

end Sys2Proof.Proofs

namespace Sys2Proof.Machine

/-- The event by which an instruction reaches the block runs that instruction (R46, R49). -/
theorem applyEvent_eventOf (i : Instr) (s : State) : applyEvent (eventOf i) s = exec i s :=
  applyEvent_eventOfWord (decode_encode i) s

theorem runEvents_cons_of_next {e : Event} {s t : State} (h : applyEvent e s = .next t) (es : List Event) :
    runEvents (e :: es) s = runEvents es t := by
  rw [runEvents_cons, h]

/-! ## The registers a context leaves (R17, R130) -/

/-- Only `TICK` runs in the tick context (R130). -/
theorem eq_tick_of_contextOf {i : Instr} (h : contextOf i = .tick) : i = .tick := by
  cases i <;> cases h
  rfl

/-- What a host command leaves of the master: never `MS.pos`, no flag cleared, and `MS.period` and each flag to their own
commands. -/
theorem exec_host_ms {i : Instr} {s t : State} (h : exec i s = .next t) (hi : contextOf i = .host) :
    t.ms.pos = s.ms.pos ∧ (s.ms.resetB = true → t.ms.resetB = true) ∧ (s.ms.resetC = true → t.ms.resetC = true) ∧
      (t.ms.period ≠ s.ms.period → ∃ v, i = .msset v) ∧
      (t.ms.resetB ≠ s.ms.resetB → i = .resyncB) ∧ (t.ms.resetC ≠ s.ms.resetC → i = .resyncC) := by
  obtain e | ⟨v, rfl, e⟩ | ⟨rfl, e⟩ | ⟨rfl, e⟩ | ⟨rfl, -⟩ := exec_ms_cases h
  case inr.inr.inr.inr => cases hi
  all_goals simp [e]

/-- What a host command leaves of a generator: its pair to `PGSET.x`, its `pos` to `PGRST.x`, its output to `PGRST.x` and
`PGTOG.x`. -/
theorem exec_host_pg {i : Instr} {s t : State} (h : exec i s = .next t) (hi : contextOf i = .host) (x : Gen) :
    ((t.pg x).period ≠ (s.pg x).period ∨ (t.pg x).duty ≠ (s.pg x).duty → ∃ u v, i = Instr.pgset x u v) ∧
      ((t.pg x).pos ≠ (s.pg x).pos → i = Instr.pgrst x) ∧
      ((t.pg x).out ≠ (s.pg x).out → i = Instr.pgrst x ∨ i = Instr.pgtog x) := by
  obtain e | ⟨u, v, rfl, e⟩ | ⟨rfl, e⟩ | ⟨rfl, e⟩ | ⟨rfl, -⟩ := exec_pg_cases h x
  case inr.inl => exact ⟨fun _ => ⟨u, v, rfl⟩, by simp [e], by simp [e]⟩
  case inr.inr.inr.inr => cases hi
  all_goals simp [e]

/-- A `TICK` leaves every pair (R17). -/
theorem State.clockMaster_pair (s : State) (x : Gen) :
    ((s.clockMaster .afterA).pg x).period = (s.pg x).period ∧ ((s.clockMaster .afterA).pg x).duty = (s.pg x).duty := by
  obtain e | e | e := s.clockMaster_pg_cases x <;> simp [e]

/-- An operation keeps every register its context may not write (R17, R130). -/
theorem exec_read_of_not_mayWrite {i : Instr} {s t : State} (h : exec i s = .next t) (r : Reg)
    (hr : (contextOf i).mayWrite r = false) : t.read r = s.read r := by
  cases hc : contextOf i with
  | host =>
    rw [hc] at hr
    cases r <;> cases hr
    exact congrArg BitVec.toNat (exec_host_ms h hc).1
  | tick =>
    obtain rfl := eq_tick_of_contextOf hc
    cases h
    cases r with
    | msPeriod => exact congrArg BitVec.toNat s.clockMaster_ms_period
    | msPos => cases hr
    | msResetB => cases hr
    | msResetC => cases hr
    | pg x f =>
      obtain ⟨hp, hd⟩ := s.clockMaster_pair x
      cases f with
      | period => exact congrArg BitVec.toNat hp
      | duty => exact congrArg BitVec.toNat hd
      | pos => cases hr
      | out => cases hr

/-! ## A counter that runs through its cycle from 0 -/

theorem succ_mod_eq_zero_iff {k m : Nat} : (k + 1) % (m + 1) = 0 ↔ k % (m + 1) = m := by
  have hk : k % (m + 1) < m + 1 := Nat.mod_lt k m.succ_pos
  rw [← Nat.mod_add_mod]
  constructor
  · intro h
    by_contra hne
    rw [Nat.mod_eq_of_lt (by omega)] at h
    omega
  · intro h
    rw [h, Nat.mod_self]

theorem succ_mod_of_ne_zero {k m : Nat} (h : (k + 1) % (m + 1) ≠ 0) : (k + 1) % (m + 1) = k % (m + 1) + 1 := by
  have hk : k % (m + 1) < m + 1 := Nat.mod_lt k m.succ_pos
  have hne := mt succ_mod_eq_zero_iff.2 h
  rw [← Nat.mod_add_mod, Nat.mod_eq_of_lt (by omega)]

/-- Where a counter of wrap index `period` stands after `k` advances from 0 (R74, R89). -/
def cyclePos (period : Word) (k : Nat) : Word := BitVec.ofNat 16 (k % (period.toNat + 1))

@[simp] theorem cyclePos_zero (period : Word) : cyclePos period 0 = 0 := by simp [cyclePos]

theorem cyclePos_toNat (period : Word) (k : Nat) : (cyclePos period k).toNat = k % (period.toNat + 1) := by
  have hk : k % (period.toNat + 1) < period.toNat + 1 := Nat.mod_lt k period.toNat.succ_pos
  have hp := period.isLt
  exact Nat.mod_eq_of_lt (by omega)

theorem cyclePos_succ_of_wrap {period : Word} {k : Nat} (h : (k + 1) % (period.toNat + 1) = 0) :
    cyclePos period (k + 1) = 0 := by
  rw [cyclePos, h]; rfl

theorem advance_cyclePos {period : Word} {k : Nat} (hp : period.toNat < MAXW) (h : (k + 1) % (period.toNat + 1) ≠ 0) :
    advance (cyclePos period k) = cyclePos period (k + 1) := by
  have hk : k % (period.toNat + 1) < period.toNat + 1 := Nat.mod_lt k period.toNat.succ_pos
  have hs := succ_mod_of_ne_zero h
  apply BitVec.eq_of_toNat_eq
  rw [advance_toNat, cyclePos_toNat, cyclePos_toNat, hs]
  unfold MAXW at hp
  omega

/-- The counter exceeds its wrap index exactly when its cycle is over (R66, R85). -/
theorem exceeds_advance_cyclePos {period : Word} (hp : period.toNat < MAXW) (k : Nat) :
    exceeds (advance (cyclePos period k)) period = decide ((k + 1) % (period.toNat + 1) = 0) := by
  have hk : k % (period.toNat + 1) < period.toNat + 1 := Nat.mod_lt k period.toNat.succ_pos
  unfold MAXW at hp
  rw [Bool.eq_iff_iff, exceeds_iff, advance_toNat, cyclePos_toNat, decide_eq_true_iff, succ_mod_eq_zero_iff]
  omega

/-! ## The steady waveform of one generator (R74) -/

/-- A generator `k` sub-steps after its freshly reset phase. -/
def PulseGen.atSubStep (g : PulseGen) (k : Nat) : PulseGen :=
  { g with pos := cyclePos g.period k, out := decide (k % (g.period.toNat + 1) < g.duty.toNat) }

theorem PulseGen.atSubStep_zero {g : PulseGen} (hf : g.FreshlyReset) (hp : g.Pulsing) : g.atSubStep 0 = g := by
  obtain ⟨hpos, hout⟩ := hf
  obtain ⟨hduty, -, -⟩ := hp
  have h0 : decide (0 % (g.period.toNat + 1) < g.duty.toNat) = true := decide_eq_true (by rwa [Nat.zero_mod])
  rw [PulseGen.atSubStep, h0, cyclePos_zero, ← hpos, ← hout]

theorem PulseGen.atSubStep_wraps {g : PulseGen} (hp : g.Pulsing) (k : Nat) :
    (g.atSubStep k).wraps = decide ((k + 1) % (g.period.toNat + 1) = 0) :=
  exceeds_advance_cyclePos hp.2.2 k

/-- Each call of `PGclock` takes a pulsing generator one sub-step on (R66, R74). -/
theorem PulseGen.atSubStep_clock {g : PulseGen} (hp : g.Pulsing) (k : Nat) :
    (g.atSubStep k).clock = g.atSubStep (k + 1) := by
  obtain ⟨hduty, -, hmax⟩ := id hp
  have hw := PulseGen.atSubStep_wraps hp k
  by_cases h : (k + 1) % (g.period.toNat + 1) = 0
  · have hout : decide ((k + 1) % (g.period.toNat + 1) < g.duty.toNat) = true := decide_eq_true (by rwa [h])
    rw [PulseGen.clock_of_wraps (hw.trans (decide_eq_true h)), PulseGen.atSubStep, PulseGen.atSubStep, hout,
      cyclePos_succ_of_wrap h]
  · have hout : (g.atSubStep k).outAtDuty (cyclePos g.period (k + 1)) =
        decide ((k + 1) % (g.period.toNat + 1) < g.duty.toNat) := by
      have hs := succ_mod_of_ne_zero h
      simp only [PulseGen.outAtDuty, PulseGen.atSubStep, ← BitVec.toNat_inj, cyclePos_toNat]
      split <;> simp only [Bool.false_eq, decide_eq_false_iff_not, decide_eq_decide] <;> omega
    have hadv : advance (g.atSubStep k).pos = cyclePos g.period (k + 1) := advance_cyclePos hmax h
    rw [PulseGen.clock_of_not_wraps (hw.trans (decide_eq_false h)), hadv, hout]
    rfl

/-! ## The whole machine from a common cycle start (R74, R89) -/

/-- With no request pending a `TICK` only counts, or counts and clocks all three generators (R85, R92). -/
theorem State.clockMaster_of_no_request {s : State} (hB : s.ms.resetB = false) (hC : s.ms.resetC = false) :
    s.clockMaster .afterA =
      if s.ms.wraps then
        { s with ms := { s.ms with pos := 0 }, pgA := s.pgA.clock, pgB := s.pgB.clock, pgC := s.pgC.clock }
      else { s with ms := { s.ms with pos := advance s.ms.pos } } := by
  obtain ⟨hw, e⟩ | ⟨hw, -, e⟩ | ⟨hw, ha, e⟩ := s.clockMaster_cases
  · rw [e, hw]; rfl
  · rw [e, hw]; rfl
  · rw [e, hw, ← PulseGen.clock_of_wraps ha]
    simp [afterPending, hB, hC]

/-- The machine `n` ticks after a common cycle start. -/
def State.atTick (s : State) (n : Nat) : State :=
  { s with
    ms := { s.ms with pos := cyclePos s.ms.period n }
    pgA := s.pgA.atSubStep (n / (s.ms.period.toNat + 1))
    pgB := s.pgB.atSubStep (n / (s.ms.period.toNat + 1))
    pgC := s.pgC.atSubStep (n / (s.ms.period.toNat + 1)) }

@[simp] theorem State.atTick_pg (s : State) (n : Nat) (x : Gen) :
    (s.atTick n).pg x = (s.pg x).atSubStep (n / (s.ms.period.toNat + 1)) := by cases x <;> rfl

theorem State.atTick_zero {s : State} (h : s.Aligned) : s.atTick 0 = s := by
  obtain ⟨hpos, -, -, -, hpg⟩ := h
  have hA : s.pgA.atSubStep 0 = s.pgA := PulseGen.atSubStep_zero (hpg .A).1 (hpg .A).2
  have hB : s.pgB.atSubStep 0 = s.pgB := PulseGen.atSubStep_zero (hpg .B).1 (hpg .B).2
  have hC : s.pgC.atSubStep 0 = s.pgC := PulseGen.atSubStep_zero (hpg .C).1 (hpg .C).2
  rw [State.atTick, Nat.zero_div, cyclePos_zero, ← hpos, hA, hB, hC]

theorem State.atTick_clockMaster {s : State} (h : s.Aligned) (n : Nat) :
    (s.atTick n).clockMaster .afterA = s.atTick (n + 1) := by
  obtain ⟨-, hmax, hflagB, hflagC, hpg⟩ := h
  have hA : s.pgA.Pulsing := (hpg .A).2
  have hB : s.pgB.Pulsing := (hpg .B).2
  have hC : s.pgC.Pulsing := (hpg .C).2
  have hw : (s.atTick n).ms.wraps = decide ((n + 1) % (s.ms.period.toNat + 1) = 0) := exceeds_advance_cyclePos hmax n
  rw [State.clockMaster_of_no_request (s := s.atTick n) hflagB hflagC, hw]
  by_cases hz : (n + 1) % (s.ms.period.toNat + 1) = 0
  · have hdiv : (n + 1) / (s.ms.period.toNat + 1) = n / (s.ms.period.toNat + 1) + 1 := by
      rw [Nat.succ_div, if_pos (Nat.dvd_of_mod_eq_zero hz)]
    rw [if_pos (decide_eq_true hz)]
    simp only [State.atTick, hdiv, cyclePos_succ_of_wrap hz, PulseGen.atSubStep_clock hA, PulseGen.atSubStep_clock hB,
      PulseGen.atSubStep_clock hC]
  · have hdiv : (n + 1) / (s.ms.period.toNat + 1) = n / (s.ms.period.toNat + 1) := by
      rw [Nat.succ_div, if_neg (mt Nat.mod_eq_zero_of_dvd hz), Nat.add_zero]
    rw [if_neg (by simpa using hz)]
    simp only [State.atTick, hdiv, advance_cyclePos hmax hz]

/-- What is observed of `n` ticks through states of which each is the next's predecessor under `TICK` (R25). -/
theorem observations_ticks {f : Nat → State} (hf : ∀ k, (f k).clockMaster .afterA = f (k + 1)) (n k : Nat) :
    observations n ((f k).present (List.replicate n .tick)) =
      (List.range' k n).map (fun j => ⟨(f (j + 1)).observe, none⟩) := by
  induction n generalizing k with
  | zero => rfl
  | succ n ih =>
    have hnext : nextEvent ((f k).present (List.replicate (n + 1) .tick)) =
        some (.tick, (f k).present (List.replicate n .tick)) := rfl
    have happly : applyEvent .tick ((f k).present (List.replicate n .tick)) =
        .next ((f (k + 1)).present (List.replicate n .tick)) := by
      rw [applyEvent, exec_tick, State.clockMaster_present, hf]
    rw [observations, hnext]
    simp only [happly]
    rw [ih, List.range'_succ, List.map_cons]
    rfl

end Sys2Proof.Machine

namespace Sys2Proof.Proofs

open Sys2Proof.Machine

/-- Settles O25: the registers a context may not write, the host's writes by command, and the tick's. -/
theorem ownershipByContext : Obligations.OwnershipByContext := by
  unfold Obligations.OwnershipByContext
  refine ⟨fun i s t h r => exec_read_of_not_mayWrite h r, ?host, ?tick⟩
  case host =>
    intro i s t h hi
    obtain ⟨hpos, hB, hC, hperiod, hflagB, hflagC⟩ := exec_host_ms h hi
    exact ⟨hpos, hB, hC, hperiod, hflagB, hflagC, exec_host_pg h hi⟩
  case tick =>
    intro s t h
    cases h
    exact ⟨s.clockMaster_ms_period, State.clockMaster_resetB, State.clockMaster_resetC, s.clockMaster_pair⟩

/-- Settles O34: a master wrap clocks every generator, and after a clock `pos <= period`. -/
theorem masterWrapRestoresPhases : Obligations.MasterWrapRestoresPhases := by
  unfold Obligations.MasterWrapRestoresPhases
  intro s hw
  refine ⟨_, exec_tick s, by simp [s.clockMaster_ms_pos, hw], fun x => ?_⟩
  obtain e | e := State.clockMaster_pg_of_wraps hw x
  · rw [e]; exact (s.pg x).clock_pos_le
  · rw [e]; exact (s.pg x).resetPhase.clock_pos_le

/-- Settles O37: the machine runs through `atTick`, whose output lines are the closed form. -/
theorem ticksAreObservedInClosedForm : Obligations.TicksAreObservedInClosedForm := by
  unfold Obligations.TicksAreObservedInClosedForm
  intro s n h
  have hobs := observations_ticks (State.atTick_clockMaster h) n 0
  rw [State.atTick_zero h] at hobs
  rw [hobs, List.range_eq_range']
  rfl

/-- Settles O10: the draw's fields, one by one. -/
theorem resetDrawsEveryOtherRegister : Obligations.ResetDrawsEveryOtherRegister := by
  unfold Obligations.ResetDrawsEveryOtherRegister
  intro s rest hs
  exact ⟨_, step_of_event hs, ⟨rfl, rfl, rfl, rfl, rfl⟩, rfl, rfl, rfl⟩

/-- Settles O11: every output is ASSERTED after a reset, and a query answers the opposite. -/
theorem queryAfterResetAnswersAsserted : Obligations.QueryAfterResetAnswersAsserted := by
  unfold Obligations.QueryAfterResetAnswersAsserted
  constructor
  · intro s x
    refine ⟨(s.applyReset (Config.resetDraw s.resets)).query x, ?_, by simp⟩
    have hreset : applyEvent .reset s = .next (s.applyReset (Config.resetDraw s.resets)) := rfl
    have hquery (u : State) : applyEvent (eventOf (Instr.pgqry x)) u = .next (u.query x) := by
      rw [applyEvent_eventOf, exec_pgqry]
    rw [runEvents_cons_of_next hreset, runEvents_cons_of_next (hquery _), runEvents_nil]
  · intro x
    exact ⟨_, exec_pgqry x State.reset, by cases x <;> rfl⟩

/-- Settles O31: each generator holds its power-on pair. -/
theorem resetPairsAreAccountedFor : Obligations.ResetPairsAreAccountedFor := by
  unfold Obligations.ResetPairsAreAccountedFor
  exact fun x => .inr (.inl (by cases x <;> rfl))

end Sys2Proof.Proofs

namespace Sys2Proof

/-- No word on the command port is a `TICK` (R47 (g), R49). -/
theorem ne_tick_of_decodeCommand {w : CmdWord} {i : Instr} (h : decodeCommand w = some i) : i ≠ .tick := by
  rintro rfl
  obtain ⟨hop, hd⟩ := Option.ite_none_left_eq_some.1 h
  exact hop (opField_of_decode hd)

end Sys2Proof

namespace Sys2Proof.Machine

/-! ## The resync requests (R16, R36) -/

theorem contextOf_of_ne_tick {i : Instr} (h : i ≠ .tick) : contextOf i = .host := by
  cases hc : contextOf i with
  | host => rfl
  | tick => exact absurd (eq_tick_of_contextOf hc) h

/-- No host command withdraws a request (R16, R17). -/
theorem exec_host_keeps_pending {i : Instr} {s t : State} (h : exec i s = .next t) (hi : contextOf i = .host) {x : Gen}
    (hx : s.ms.pending x = true) : t.ms.pending x = true := by
  obtain ⟨-, hB, hC, -, -, -⟩ := exec_host_ms h hi
  cases x with
  | A => cases hx
  | B => exact hB hx
  | C => exact hC hx

/-- A `TICK` without A's cycle start leaves every request (R88, R93). -/
theorem State.clockMaster_pending {s : State} (h : s.cycleStartOfA = false) (x : Gen) :
    (s.clockMaster .afterA).ms.pending x = s.ms.pending x := by
  obtain ⟨-, e⟩ | ⟨-, -, e⟩ | ⟨hm, ha, -⟩ := s.clockMaster_cases
  · rw [e]; cases x <;> rfl
  · rw [e]; cases x <;> rfl
  · exact absurd h (by simp [State.cycleStartOfA, hm, ha])

/-! ## Operations applied twice (R37) -/

@[simp] theorem State.setPg_setPg (s : State) (x : Gen) (g k : PulseGen) : (s.setPg x g).setPg x k = s.setPg x k := by
  cases x <;> rfl

@[simp] theorem State.setPg_pg (s : State) (x : Gen) : s.setPg x (s.pg x) = s := by cases x <;> rfl

theorem State.setPg_noteDegenerate (s : State) (x : Gen) (g : PulseGen) (u : Word) :
    (s.noteDegenerate u).setPg x g = (s.setPg x g).noteDegenerate u := by cases x <;> rfl

@[simp] theorem State.noteDegenerate_noteDegenerate (s : State) (u : Word) :
    (s.noteDegenerate u).noteDegenerate u = s.noteDegenerate u := by
  simp [State.noteDegenerate]

@[simp] theorem PulseGen.setPeriod_setPeriod (g : PulseGen) (u v : Word) :
    (g.setPeriod u v).setPeriod u v = g.setPeriod u v := rfl

@[simp] theorem PulseGen.resetPhase_resetPhase (g : PulseGen) : g.resetPhase.resetPhase = g.resetPhase := rfl

@[simp] theorem PulseGen.toggle_toggle (g : PulseGen) : g.toggle.toggle = g := by simp [PulseGen.toggle]

@[simp] theorem State.setPeriod_setPeriod (s : State) (x : Gen) (u v : Word) :
    (s.setPeriod x u v).setPeriod x u v = s.setPeriod x u v := by
  rw [State.setPeriod, State.setPeriod, State.setPg_noteDegenerate]
  simp

@[simp] theorem State.resetPhase_resetPhase (s : State) (x : Gen) : (s.resetPhase x).resetPhase x = s.resetPhase x := by
  simp [State.resetPhase]

@[simp] theorem State.toggle_toggle (s : State) (x : Gen) : (s.toggle x).toggle x = s := by simp [State.toggle]

@[simp] theorem State.query_query (s : State) (x : Gen) : (s.query x).query x = s.query x := by cases x <;> rfl

/-- A query writes no register of R11 (R69). -/
@[simp] theorem State.read_query (s : State) (x : Gen) (r : Reg) : (s.query x).read r = s.read r := by
  cases r <;> simp [State.read]

/-! ## The parameters a host pushes, and what of them each instruction writes (R17, R61, R81) -/

/-- What the host pushes and no `TICK` writes: the master period and each generator's pair (`period`, `duty`); with them the
model's violation mark. -/
structure Parameters where
  msPeriod : Word
  violation : Bool
  pair : Gen → Word × Word

/-- The parameters a state holds. -/
def State.parameters (s : State) : Parameters where
  msPeriod := s.ms.period
  violation := s.violation
  pair x := ((s.pg x).period, (s.pg x).duty)

/-- `PGSET.x` on the parameters (R61, R62). -/
def Parameters.setPair (p : Parameters) (x : Gen) (u v : Word) : Parameters :=
  { p with violation := p.violation || u == 0, pair := Function.update p.pair x (pgPeriodOf u, pgDutyOf u v) }

/-- What an instruction makes of the parameters. -/
def Parameters.push (p : Parameters) : Instr → Parameters
  | .msset v => { p with msPeriod := v }
  | .pgsetA u v => p.setPair .A u v
  | .pgsetB u v => p.setPair .B u v
  | .pgsetC u v => p.setPair .C u v
  | _ => p

@[simp] theorem Parameters.push_pgset (p : Parameters) (x : Gen) (u v : Word) :
    p.push (Instr.pgset x u v) = p.setPair x u v := by cases x <;> rfl

@[simp] theorem Parameters.push_pgrst (p : Parameters) (x : Gen) : p.push (Instr.pgrst x) = p := by cases x <;> rfl

@[simp] theorem Parameters.push_pgtog (p : Parameters) (x : Gen) : p.push (Instr.pgtog x) = p := by cases x <;> rfl

@[simp] theorem Parameters.push_pgqry (p : Parameters) (x : Gen) : p.push (Instr.pgqry x) = p := by cases x <;> rfl

theorem State.parameters_eq_of {s t : State} (hms : t.ms.period = s.ms.period) (hv : t.violation = s.violation)
    (hpg : ∀ x, (t.pg x).period = (s.pg x).period ∧ (t.pg x).duty = (s.pg x).duty) : t.parameters = s.parameters := by
  simp only [State.parameters, hms, hv, hpg]

@[simp] theorem State.clockMaster_violation (s : State) : (s.clockMaster .afterA).violation = s.violation := by
  obtain ⟨-, e⟩ | ⟨-, -, e⟩ | ⟨-, -, e⟩ := s.clockMaster_cases <;> rw [e]

/-- A `TICK` writes no parameter (R17). -/
@[simp] theorem State.parameters_clockMaster (s : State) : (s.clockMaster .afterA).parameters = s.parameters :=
  State.parameters_eq_of s.clockMaster_ms_period s.clockMaster_violation s.clockMaster_pair

theorem State.parameters_setPg {s : State} {x : Gen} {g : PulseGen} (hp : g.period = (s.pg x).period)
    (hd : g.duty = (s.pg x).duty) : (s.setPg x g).parameters = s.parameters := by
  refine State.parameters_eq_of (by simp) (by simp) fun y => ?_
  obtain ⟨rfl, e⟩ | e := s.pg_setPg_same_or x y g
  · rw [e]; exact ⟨hp, hd⟩
  · rw [e]; exact ⟨rfl, rfl⟩

theorem State.parameters_setPeriod (s : State) (x : Gen) (u v : Word) :
    (s.setPeriod x u v).parameters = s.parameters.setPair x u v := by
  have hpair (y : Gen) : (((s.setPeriod x u v).pg y).period, ((s.setPeriod x u v).pg y).duty) =
      Function.update s.parameters.pair x (pgPeriodOf u, pgDutyOf u v) y := by
    rw [State.setPeriod, State.noteDegenerate_pg, State.pg_setPg_cases, Function.update_apply]
    split <;> rfl
  simp only [State.parameters, hpair]
  simp [State.setPeriod, Parameters.setPair]

/-- Each instruction makes of the parameters what `push` says, and reads nothing else for it. -/
theorem exec_parameters {i : Instr} {s t : State} (h : exec i s = .next t) : t.parameters = s.parameters.push i := by
  obtain ⟨v, rfl, rfl⟩ | ⟨x, u, v, rfl, rfl⟩ | ⟨rfl, rfl⟩ | ⟨rfl, rfl⟩ | ⟨x, rfl, rfl⟩ | ⟨x, rfl, rfl⟩ | ⟨x, rfl, rfl⟩ |
    ⟨rfl, rfl⟩ := exec_cases h
  · simp [State.parameters, Parameters.push, State.setMasterPeriod, msPeriodOf, Config.msPeriodBias]
  · rw [Parameters.push_pgset, State.parameters_setPeriod]
  · exact State.parameters_eq_of rfl rfl fun x => by simp
  · exact State.parameters_eq_of rfl rfl fun x => by simp
  · rw [Parameters.push_pgrst]; exact State.parameters_setPg rfl rfl
  · rw [Parameters.push_pgtog]; exact State.parameters_setPg rfl rfl
  · rw [Parameters.push_pgqry]; exact State.parameters_eq_of rfl rfl fun y => by simp
  · exact s.parameters_clockMaster

/-! ## A run in which ticks fall among a host's commands (R34) -/

/-- The first event of an interleaving is a tick between commands, or the host's next command. -/
theorem interleaves_cons {host run : List Event} {e : Event} (h : interleaves host (e :: run) = true) :
    (e = .tick ∧ interleaves host run = true) ∨ ∃ rest, host = e :: rest ∧ interleaves rest run = true := by
  cases e with
  | tick => exact .inl ⟨rfl, by simpa [interleaves] using h⟩
  | reset =>
    cases host with
    | nil => cases h
    | cons a rest =>
      obtain ⟨rfl, hrest⟩ : a = .reset ∧ _ := by simpa [interleaves] using h
      exact .inr ⟨rest, rfl, hrest⟩
  | cmd w =>
    cases host with
    | nil => cases h
    | cons a rest =>
      obtain ⟨rfl, hrest⟩ : a = .cmd w ∧ _ := by simpa [interleaves] using h
      exact .inr ⟨rest, rfl, hrest⟩

theorem eq_nil_of_interleaves_nil {host : List Event} (h : interleaves host [] = true) : host = [] := by
  cases host with
  | nil => rfl
  | cons e host => cases h

/-- Wherever the ticks fall, the run completes and leaves the parameters as the commands alone, one after another, make
them (R34). -/
theorem runEvents_interleaved {is : List Instr} {run : List Event} (h : interleaves (eventsOf is) run = true) (s : State) :
    ∃ t, runEvents run s = .next t ∧ t.parameters = is.foldl Parameters.push s.parameters := by
  induction run generalizing is s with
  | nil =>
    obtain rfl := List.map_eq_nil_iff.1 (eq_nil_of_interleaves_nil h)
    exact ⟨s, rfl, rfl⟩
  | cons e run ih =>
    obtain ⟨rfl, hrest⟩ | ⟨host, hhost, hrest⟩ := interleaves_cons h
    · obtain ⟨t, ht, hp⟩ := ih hrest (s.clockMaster .afterA)
      exact ⟨t, (runEvents_cons_of_next (e := .tick) (exec_tick s) run).trans ht, by rw [hp, s.parameters_clockMaster]⟩
    · obtain ⟨i, is, rfl, rfl, rfl⟩ := List.map_eq_cons_iff.1 hhost
      obtain ⟨u, hu⟩ := exec_completes i s
      obtain ⟨t, ht, hp⟩ := ih hrest u
      exact ⟨t, (runEvents_cons_of_next ((applyEvent_eventOf i s).trans hu) run).trans ht,
        by rw [hp, exec_parameters hu, List.foldl_cons]⟩

/-! ## What a control cycle pushes (R103, R106) -/

theorem foldl_push_resyncRequests (h : HostMemory) (b c : Nat) (p : Parameters) :
    (resyncRequests h b c).foldl Parameters.push p = p := by
  unfold resyncRequests
  split <;> split <;> rfl

/-- The four pushes write every parameter, and with no operand `ticks = 0` record no violation. -/
theorem foldl_push_pushes {tb tc : Word} (hb : tb ≠ 0) (hc : tc ≠ 0) (period cap : Word) (p : Parameters) :
    (pushes period cap tb tc).foldl Parameters.push p =
      { msPeriod := period
        violation := p.violation
        pair := fun x =>
          (pgPeriodOf (perGen Config.aBaseTicks tb tc x), pgDutyOf (perGen Config.aBaseTicks tb tc x) cap) } := by
  have hviolation : (((p.violation || Config.aBaseTicks == 0) || tb == 0) || tc == 0) = p.violation := by
    have ha : Config.aBaseTicks ≠ 0 := by decide
    rw [beq_false_of_ne ha, beq_false_of_ne hb, beq_false_of_ne hc, Bool.or_false, Bool.or_false, Bool.or_false]
  simp only [pushes, List.foldl, Parameters.push, Parameters.setPair, Parameters.mk.injEq, true_and]
  refine ⟨hviolation, funext fun x => ?_⟩
  cases x <;> rfl

/-- However ticks fall among a control cycle's commands, the run completes and the machine holds what the four pushes say. -/
theorem runEvents_controlCycle {h : HostMemory} {b c : Nat} {period cap tb tc : Word} {run : List Event} (hb : tb ≠ 0)
    (hc : tc ≠ 0) (hrun : interleaves (eventsOf (resyncRequests h b c ++ pushes period cap tb tc)) run = true)
    (s : State) :
    ∃ t, runEvents run s = .next t ∧ t.violation = s.violation ∧ t.ms.period = period ∧
      ∀ x, (t.pg x).period = pgPeriodOf (perGen Config.aBaseTicks tb tc x) ∧
        (t.pg x).duty = pgDutyOf (perGen Config.aBaseTicks tb tc x) cap := by
  obtain ⟨t, ht, hpar⟩ := runEvents_interleaved hrun s
  rw [List.foldl_append, foldl_push_resyncRequests, foldl_push_pushes hb hc] at hpar
  exact ⟨t, ht, congrArg Parameters.violation hpar, congrArg Parameters.msPeriod hpar,
    fun x => Prod.mk.inj (congrFun (congrArg Parameters.pair hpar) x)⟩

/-- A table entry fits its operand field and is no zero (R8, R105). -/
theorem tableWf_entry {v : Vector Nat 11} (h : tableWf v = true) {k e : Nat} (hk : v[k]? = some e) :
    1 ≤ e ∧ e ≤ MAXW := by
  have he : e ∈ v.toList := by
    rw [Vector.mem_toList_iff]
    exact Vector.mem_of_getElem? hk
  simpa using List.all_eq_true.1 h e he

theorem operandOf_toNat {n : Nat} (h : n ≤ MAXW) : (operandOf n).toNat = n := by
  unfold MAXW at h
  exact Nat.mod_eq_of_lt (by omega)

theorem operandOf_ne_zero {n : Nat} (h1 : 1 ≤ n) (h : n ≤ MAXW) : operandOf n ≠ 0 := by
  intro h0
  rw [← operandOf_toNat h, h0] at h1
  exact absurd h1 (by decide)

theorem pgPeriodOf_operandOf {n : Nat} (h1 : 1 ≤ n) (h : n ≤ MAXW) : (pgPeriodOf (operandOf n)).toNat + 1 = n := by
  rw [pgPeriodOf_toNat, operandOf_toNat h]
  unfold MAXW at h
  omega

end Sys2Proof.Machine

namespace Sys2Proof.Proofs

open Sys2Proof.Machine

/-- Settles O26: no host command withdraws a request, and a `TICK` does only at A's cycle start. -/
theorem requestsAreNeverLost : Obligations.RequestsAreNeverLost := by
  unfold Obligations.RequestsAreNeverLost
  intro s t x h hx
  obtain ⟨-, rfl⟩ | ⟨rest, hs, -⟩ | ⟨rest, hs, rfl⟩ | ⟨w, rest, i, -, hd, he⟩ := step_cases h
  · exact .inl hx
  · exact .inr (.inl ⟨rest, hs⟩)
  · cases hc : s.cycleStartOfA with
    | true => exact .inr (.inr ⟨⟨rest, hs⟩, rfl⟩)
    | false =>
      have hkept := State.clockMaster_pending (s := { s with inputs := rest }) hc x
      exact .inl (hkept.trans hx)
  · exact .inl (exec_host_keeps_pending he (contextOf_of_ne_tick (ne_tick_of_decodeCommand hd)) hx)

/-- Settles O51: a control cycle's parameters are those its pushes make, wherever the ticks fall, and admissible operands are
stored exactly. -/
theorem controlCycleUnderEveryInterleaving : Obligations.ControlCycleUnderEveryInterleaving := by
  unfold Obligations.ControlCycleUnderEveryInterleaving
  intro p h h' b c f is run s hwf hf hcycle hrun
  obtain ⟨tb, tc, hb, hc, -, -, -, rfl⟩ := ctrlCycle_ok hcycle
  simp only [RateParams.wf, Bool.and_eq_true, beq_iff_eq] at hwf
  obtain ⟨⟨⟨hB, hC⟩, hunity⟩, hrange⟩ := hwf
  obtain ⟨-, -, hperiod, hcap⟩ := RateParams.range_fits hrange hf
  obtain ⟨hb1, hbmax⟩ := tableWf_entry hB hb
  obtain ⟨hc1, hcmax⟩ := tableWf_entry hC hc
  obtain ⟨t, ht, hviolation, hmsPeriod, hpair⟩ :=
    runEvents_controlCycle (operandOf_ne_zero hb1 hbmax) (operandOf_ne_zero hc1 hcmax) hrun s
  refine ⟨t, ht, hviolation, ?msPeriod, ?periodA, fun x => ?duty, ?periodB, ?periodC, ?unity⟩
  case msPeriod => rw [hmsPeriod, operandOf_toNat hperiod]; rfl
  case periodA => exact (hpair .A).1.trans (show pgPeriodOf Config.aBaseTicks = 47 by decide)
  case duty =>
    rw [PulseGen.DutyFits, (hpair x).1, (hpair x).2]
    refine ⟨pgDutyOf_le_period _ _, ?_⟩
    rw [pgDutyOf_toNat, operandOf_toNat hcap]
    exact min_le_left _ _
  case periodB => rw [hb, ← pgPeriodOf_operandOf hb1 hbmax]; exact congrArg (fun w => some (w.toNat + 1)) (hpair .B).1
  case periodC => rw [hc, ← pgPeriodOf_operandOf hc1 hcmax]; exact congrArg (fun w => some (w.toNat + 1)) (hpair .C).1
  case unity =>
    rintro rfl
    obtain rfl : tb = 48 := by simpa [hunity, eq_comm] using hb
    exact ⟨(hpair .B).1.trans (hpair .A).1.symm, (hpair .B).2.trans (hpair .A).2.symm⟩

/-- Settles O20: each operation by what it is twice. -/
theorem repeatedCommands : Obligations.RepeatedCommands := by
  unfold Obligations.RepeatedCommands
  refine ⟨fun x s => ?query, fun x s => ?toggle, fun i s hi => ?idempotent⟩
  case query => exact ⟨s.query x, exec_pgqry x s, fun r _ => s.read_query x r, by rw [exec_pgqry, State.query_query]⟩
  case toggle => exact ⟨s.toggle x, exec_pgtog x s, by rw [exec_pgtog, State.toggle_toggle]⟩
  case idempotent =>
    obtain ⟨v, rfl⟩ | ⟨x, u, v, rfl⟩ | rfl | rfl | ⟨x, rfl⟩ := hi
    · exact ⟨_, rfl, rfl⟩
    · exact ⟨_, exec_pgset x u v s, by rw [exec_pgset, State.setPeriod_setPeriod]⟩
    · exact ⟨_, rfl, rfl⟩
    · exact ⟨_, rfl, rfl⟩
    · exact ⟨_, exec_pgrst x s, by rw [exec_pgrst, State.resetPhase_resetPhase]⟩

end Sys2Proof.Proofs

namespace Sys2Proof

/-! ## The decoder's inverse: the fields of a word that decodes (R41, R50) -/

/-- A word is the word of its five fields. -/
theorem word_of_five_fields (w : CmdWord) :
    word (opField w ++ selField w ++ rsvField w) (ticksField w) (capField w) = w := by
  rw [topByte_of_fields, word_of_fields]

/-- The selector of a generator (R42). -/
def Gen.sel : Gen → BitVec 2
  | .A => 0
  | .B => 1
  | .C => 2

theorem Gen.ofSel_sel (x : Gen) : Gen.ofSel x.sel = some x := by cases x <;> rfl

/-- A selector is that of a generator, or the reserved `11` (R42). -/
theorem exists_sel_or_reserved (sel : BitVec 2) : (∃ x : Gen, sel = x.sel) ∨ sel = 3 := by
  have hsel : sel = 0 ∨ sel = 1 ∨ sel = 2 ∨ sel = 3 := by decide +revert
  obtain h | h | h | h := hsel
  · exact .inl ⟨.A, h⟩
  · exact .inl ⟨.B, h⟩
  · exact .inl ⟨.C, h⟩
  · exact .inr h

theorem Gen.ofSel_eq_some_iff {sel : BitVec 2} {x : Gen} : Gen.ofSel sel = some x ↔ sel = x.sel := by
  constructor
  · intro h
    obtain ⟨y, rfl⟩ | rfl := exists_sel_or_reserved sel
    · rw [Option.some.inj ((Gen.ofSel_sel y).symm.trans h)]
    · cases h
  · rintro rfl
    exact x.ofSel_sel

theorem decodePlain_eq_some_iff {w : CmdWord} {command : Gen → Option Instr} {i : Instr} :
    decodePlain w command = some i ↔
      (ticksField w = 0 ∧ capField w = 0) ∧ ∃ x, selField w = x.sel ∧ command x = some i := by
  simp only [decodePlain, Option.ite_none_right_eq_some, Option.bind_eq_some_iff, Gen.ofSel_eq_some_iff]

/-! The words of the legal list (R49) by `op` and selector -/

theorem encode_msset (t : Word) : encode (.msset t) = word (1#4 ++ (0 : BitVec 2) ++ 0#2) t 0 := rfl

theorem encode_pgset (x : Gen) (t c : Word) : encode (Instr.pgset x t c) = word (2#4 ++ x.sel ++ 0#2) t c := by
  cases x <;> rfl

theorem encode_resync {x : Gen} {i : Instr} (h : Instr.resyncOf? x = some i) :
    encode i = word (3#4 ++ x.sel ++ 0#2) 0 0 := by
  cases x <;> cases h <;> rfl

theorem encode_pgrst (x : Gen) : encode (Instr.pgrst x) = word (4#4 ++ x.sel ++ 0#2) 0 0 := by cases x <;> rfl

theorem encode_pgtog (x : Gen) : encode (Instr.pgtog x) = word (5#4 ++ x.sel ++ 0#2) 0 0 := by cases x <;> rfl

theorem encode_pgqry (x : Gen) : encode (Instr.pgqry x) = word (6#4 ++ x.sel ++ 0#2) 0 0 := by cases x <;> rfl

theorem encode_tick : encode .tick = word (7#4 ++ (0 : BitVec 2) ++ 0#2) 0 0 := rfl

/-- A word with `rsv = 0`, by its other fields. -/
theorem word_eq_of_fields {w : CmdWord} {n : Nat} {sel : BitVec 2} {t c : Word} (hop : (opField w).toNat = n)
    (hsel : selField w = sel) (hrsv : rsvField w = 0#2) (hticks : ticksField w = t) (hcap : capField w = c) :
    word (BitVec.ofNat 4 n ++ sel ++ 0#2) t c = w := by
  rw [← hop, BitVec.ofNat_toNat, BitVec.setWidth_eq, ← hsel, ← hrsv, ← hticks, ← hcap, word_of_five_fields]

/-- A plain word that decodes is its command's own, when each command `command` answers is encoded with that `op`. -/
theorem encode_of_decodePlain {w : CmdWord} {n : Nat} {command : Gen → Option Instr} {i : Instr}
    (hop : (opField w).toNat = n) (hrsv : rsvField w = 0#2)
    (hcommand : ∀ x, command x = some i → encode i = word (BitVec.ofNat 4 n ++ x.sel ++ 0#2) 0 0)
    (h : decodePlain w command = some i) : encode i = w := by
  obtain ⟨⟨hticks, hcap⟩, x, hsel, hx⟩ := decodePlain_eq_some_iff.1 h
  rw [hcommand x hx, word_eq_of_fields hop hsel hrsv hticks hcap]

/-- A word that decodes is the word of the instruction it decodes to (R49, R50). -/
theorem encode_of_decode {w : CmdWord} {i : Instr} (h : decode w = some i) : encode i = w := by
  simp only [decode, Option.ite_none_left_eq_some, not_or, not_not] at h
  obtain ⟨⟨hrsv, -⟩, h⟩ := h
  split at h
  case h_1 hop =>
    obtain ⟨⟨hsel, hcap⟩, hi⟩ := Option.ite_none_right_eq_some.1 h
    obtain rfl := Option.some.inj hi
    rw [encode_msset, word_eq_of_fields hop hsel hrsv rfl hcap]
  case h_2 hop =>
    obtain ⟨x, hx, rfl⟩ := Option.map_eq_some_iff.1 h
    rw [encode_pgset, word_eq_of_fields hop (Gen.ofSel_eq_some_iff.1 hx) hrsv rfl rfl]
  case h_3 hop => exact encode_of_decodePlain hop hrsv (fun x hx => encode_resync hx) h
  case h_4 hop => exact encode_of_decodePlain hop hrsv (fun x hx => Option.some.inj hx ▸ encode_pgrst x) h
  case h_5 hop => exact encode_of_decodePlain hop hrsv (fun x hx => Option.some.inj hx ▸ encode_pgtog x) h
  case h_6 hop => exact encode_of_decodePlain hop hrsv (fun x hx => Option.some.inj hx ▸ encode_pgqry x) h
  case h_7 hop =>
    obtain ⟨⟨hsel, hticks, hcap⟩, hi⟩ := Option.ite_none_right_eq_some.1 h
    obtain rfl := Option.some.inj hi
    rw [encode_tick, word_eq_of_fields hop hsel hrsv hticks hcap]
  case h_8 => cases h

theorem decode_eq_some_iff {w : CmdWord} {i : Instr} : decode w = some i ↔ encode i = w := by
  constructor
  · exact encode_of_decode
  · rintro rfl
    exact decode_encode i

end Sys2Proof

namespace Sys2Proof.Proofs

open Sys2Proof.Machine

/-- Settles O3: the fields of a word that decodes are those of its instruction's word, and that word decodes. -/
theorem decodeInvertsEncode : Obligations.DecodeInvertsEncode := by
  unfold Obligations.DecodeInvertsEncode
  exact fun w i => decode_eq_some_iff

end Sys2Proof.Proofs

namespace Sys2Proof

/-! ## The command port (R47 (g), R49) -/

theorem decodeCommand_encode {i : Instr} (h : i ≠ .tick) : decodeCommand (encode i) = some i := by
  have htick : decode 0x7000000000 = some .tick := by decide
  refine decodeCommand_of_decode (fun hw => h ?_) (decode_encode i)
  exact Option.some.inj ((decode_eq_some_iff.2 hw).symm.trans htick)

/-! ## The reserved words by their fields (R47) -/

theorem opField_toNat (w : CmdWord) : (opField w).toNat = w.toNat / 2 ^ 36 := by
  have hw := w.isLt
  rw [opField, BitVec.extractLsb'_toNat, Nat.shiftRight_eq_div_pow]
  omega

theorem selField_toNat (w : CmdWord) : (selField w).toNat = w.toNat / 2 ^ 34 % 4 := by
  rw [selField, BitVec.extractLsb'_toNat, Nat.shiftRight_eq_div_pow]

theorem rsvField_toNat (w : CmdWord) : (rsvField w).toNat = w.toNat / 2 ^ 32 % 4 := by
  rw [rsvField, BitVec.extractLsb'_toNat, Nat.shiftRight_eq_div_pow]

theorem ticksField_toNat (w : CmdWord) : (ticksField w).toNat = w.toNat / 2 ^ 16 % 2 ^ 16 := by
  rw [ticksField, BitVec.extractLsb'_toNat, Nat.shiftRight_eq_div_pow]

theorem capField_toNat (w : CmdWord) : (capField w).toNat = w.toNat % 2 ^ 16 := by
  rw [capField, BitVec.extractLsb'_toNat, Nat.shiftRight_zero]

theorem decodePlain_eq_none_iff {w : CmdWord} {x : Gen} (hsel : selField w = x.sel) (command : Gen → Option Instr) :
    decodePlain w command = none ↔ capField w ≠ 0 ∨ ticksField w ≠ 0 ∨ command x = none := by
  rw [decodePlain, hsel, x.ofSel_sel, Option.bind_some, ite_eq_right_iff]
  tauto

theorem Instr.resyncOf?_eq_none_iff (x : Gen) : Instr.resyncOf? x = none ↔ x.sel = 0 := by cases x <;> decide

/-- The reserved words by their fields, the classes (a) to (f) of R47. -/
theorem decode_eq_none_iff_fields (w : CmdWord) :
    decode w = none ↔
      ((opField w).toNat = 0 ∨ 8 ≤ (opField w).toNat) ∨ selField w = 3#2 ∨ rsvField w ≠ 0#2 ∨
        ((opField w).toNat = 3 ∧ selField w = 0#2) ∨
        (((opField w).toNat = 1 ∨ (opField w).toNat = 7) ∧ selField w ≠ 0#2) ∨
        (capField w ≠ 0#16 ∧ (opField w).toNat ∈ [1, 3, 4, 5, 6, 7]) ∨
        (ticksField w ≠ 0#16 ∧ (opField w).toNat ∈ [3, 4, 5, 6, 7]) := by
  obtain hrsv | hrsv := ne_or_eq (rsvField w) 0#2
  · exact iff_of_true (if_pos (.inl hrsv)) (.inr (.inr (.inl hrsv)))
  obtain ⟨x, hsel⟩ | hsel := exists_sel_or_reserved (selField w)
  case inr => exact iff_of_true (if_pos (.inr hsel)) (.inr (.inl hsel))
  have hsel3 : selField w ≠ 3#2 := by
    rw [hsel]
    cases x <;> decide
  have hfields : ¬(rsvField w ≠ 0 ∨ selField w = 3) := not_or.2 ⟨not_not.2 hrsv, hsel3⟩
  rw [decode, if_neg hfields]
  split
  case h_1 hop => simp [hop, hrsv, hsel3, imp_iff_not_or]
  case h_2 hop => simp [hop, hrsv, hsel3, Gen.ofSel_eq_some_iff.2 hsel]
  case h_3 hop => simp [hop, hrsv, hsel3, decodePlain_eq_none_iff hsel, Instr.resyncOf?_eq_none_iff, ← hsel, or_comm,
    or_left_comm]
  case h_4 hop => simp [hop, hrsv, hsel3, decodePlain_eq_none_iff hsel]
  case h_5 hop => simp [hop, hrsv, hsel3, decodePlain_eq_none_iff hsel]
  case h_6 hop => simp [hop, hrsv, hsel3, decodePlain_eq_none_iff hsel]
  case h_7 hop => simp [hop, hrsv, hsel3, imp_iff_not_or, or_comm]
  case h_8 h1 h2 h3 h4 h5 h6 h7 =>
    have hop : (opField w).toNat = 0 ∨ 8 ≤ (opField w).toNat := by
      simp only [imp_false] at h1 h2 h3 h4 h5 h6 h7
      omega
    exact iff_of_true rfl (.inl hop)

/-! ## The rows of the opcode table (R46, R49) -/

/-- A row without operands has one word, and that word decodes. -/
theorem plainRows_decode : ∀ r ∈ plainRows, r.mask = BitVec.allOnes 40 ∧ decode r.pattern ≠ none := by decide

theorem decode_ne_none_of_plainRow {r : Row} {w : CmdWord} (hr : r ∈ plainRows) (hw : r.covers w = true) :
    decode w ≠ none := by
  obtain ⟨hmask, hpattern⟩ := plainRows_decode r hr
  rw [Row.covers, hmask, BitVec.and_allOnes, beq_iff_eq] at hw
  rwa [hw]

/-- The rows with operands, by fields. -/
theorem operandRows_by_fields :
    operandRows =
      [⟨"MSSET", word 0xFF 0 0xFFFF, word 0x10 0 0⟩, ⟨"PGSET.A", word 0xFF 0 0, word 0x20 0 0⟩,
       ⟨"PGSET.B", word 0xFF 0 0, word 0x24 0 0⟩, ⟨"PGSET.C", word 0xFF 0 0, word 0x28 0 0⟩] := by
  decide

/-- A row that takes the top byte whole and no bit of `ticks`. -/
theorem covers_operandRow {name : String} {b : BitVec 8} {m k : Word} {w : CmdWord}
    (h : Row.covers ⟨name, word 0xFF 0 m, word b 0 k⟩ w = true) : w.extractLsb' 32 8 = b ∧ capField w &&& m = k := by
  rw [← word_of_fields w, Laws.OwnRow.covers_word, decide_eq_true_eq] at h
  obtain ⟨htop, -, hcap⟩ := h
  exact ⟨(BitVec.and_allOnes (x := w.extractLsb' 32 8)).symm.trans htop, hcap⟩

theorem decode_ne_none_of_operandRow {r : Row} {w : CmdWord} (hr : r ∈ operandRows) (hw : r.covers w = true) :
    decode w ≠ none := by
  suffices ∃ i, encode i = w by
    obtain ⟨i, rfl⟩ := this
    simp
  rw [operandRows_by_fields] at hr
  rw [← word_of_fields w]
  simp only [List.mem_cons, List.not_mem_nil, or_false] at hr
  obtain rfl | rfl | rfl | rfl := hr <;> obtain ⟨htop, hcap⟩ := covers_operandRow hw <;> rw [htop]
  · have hcap0 : capField w = 0 := (BitVec.and_allOnes (x := capField w)).symm.trans hcap
    exact ⟨.msset (ticksField w), by rw [hcap0, encode]⟩
  · exact ⟨.pgsetA _ _, rfl⟩
  · exact ⟨.pgsetB _ _, rfl⟩
  · exact ⟨.pgsetC _ _, rfl⟩

theorem mnemonicOf_mem_opcodeTable (i : Instr) : Machine.mnemonicOf i ∈ opcodeTable.map Row.mnemonic := by
  cases i <;> simp [opcodeTable, operandRows, plainRows, Machine.mnemonicOf]

/-- The row of its mnemonic covers an instruction's word (R46, R49). -/
theorem ownRow (i : Instr) : Laws.OwnRow.Statement i := by
  cases i with
  | msset t => exact Laws.OwnRow.msset t
  | pgsetA t c => exact Laws.OwnRow.pgsetA t c
  | pgsetB t c => exact Laws.OwnRow.pgsetB t c
  | pgsetC t c => exact Laws.OwnRow.pgsetC t c
  | resyncB => exact Laws.OwnRow.resyncB
  | resyncC => exact Laws.OwnRow.resyncC
  | pgrstA => exact Laws.OwnRow.pgrstA
  | pgrstB => exact Laws.OwnRow.pgrstB
  | pgrstC => exact Laws.OwnRow.pgrstC
  | pgtogA => exact Laws.OwnRow.pgtogA
  | pgtogB => exact Laws.OwnRow.pgtogB
  | pgtogC => exact Laws.OwnRow.pgtogC
  | pgqryA => exact Laws.OwnRow.pgqryA
  | pgqryB => exact Laws.OwnRow.pgqryB
  | pgqryC => exact Laws.OwnRow.pgqryC
  | tick => exact Laws.OwnRow.tick

theorem exists_row_covers_encode (i : Instr) : ∃ r ∈ opcodeTable, r.covers (encode i) = true := by
  obtain ⟨r, hr, hname⟩ := List.mem_map.1 (mnemonicOf_mem_opcodeTable i)
  exact ⟨r, hr, (ownRow i r hr).trans (decide_eq_true hname)⟩

/-- The opcode table and the decoder agree on which words are reserved (R47, R49). -/
theorem decode_eq_none_iff_no_row (w : CmdWord) : decode w = none ↔ ∀ r ∈ opcodeTable, r.covers w = false := by
  constructor
  · intro h r hr
    rw [← Bool.not_eq_true]
    intro hw
    obtain hr | hr := List.mem_append.1 hr
    · exact decode_ne_none_of_operandRow hr hw h
    · exact decode_ne_none_of_plainRow hr hw h
  · intro h
    refine Option.eq_none_iff_forall_ne_some.2 fun i hi => ?_
    obtain ⟨r, hr, hw⟩ := exists_row_covers_encode i
    rw [encode_of_decode hi, h r hr] at hw
    cases hw

/-- R47 (g). -/
theorem decodeCommand_eq_none_iff (w : CmdWord) :
    decodeCommand w = none ↔ decode w = none ∨ (opField w).toNat = 7 := by
  have hop : opField w = 7 ↔ (opField w).toNat = 7 := BitVec.toNat_inj.symm
  rw [decodeCommand, ite_eq_left_iff, hop]
  tauto

end Sys2Proof

namespace Sys2Proof.Machine

/-! ## The answer bit (R43) -/

@[simp] theorem State.setMasterPeriod_rsp (s : State) (bias v : Word) : (s.setMasterPeriod bias v).rsp = s.rsp := rfl
@[simp] theorem State.setPeriod_rsp (s : State) (x : Gen) (u v : Word) : (s.setPeriod x u v).rsp = s.rsp :=
  s.setPg_rsp x _
@[simp] theorem State.resetPhase_rsp (s : State) (x : Gen) : (s.resetPhase x).rsp = s.rsp := s.setPg_rsp x _
@[simp] theorem State.toggle_rsp (s : State) (x : Gen) : (s.toggle x).rsp = s.rsp := s.setPg_rsp x _
@[simp] theorem State.clockMaster_rsp (s : State) : (s.clockMaster .afterA).rsp = s.rsp := by
  obtain ⟨-, e⟩ | ⟨-, -, e⟩ | ⟨-, -, e⟩ := s.clockMaster_cases <;> rw [e]

/-- An instruction is a query of some generator, and answers it, or is none and leaves the answer bit. -/
theorem exec_rsp_cases {i : Instr} {s t : State} (h : exec i s = .next t) :
    (∃ x, i = Instr.pgqry x ∧ t = s.query x) ∨ ((∀ x, i ≠ Instr.pgqry x) ∧ t.rsp = s.rsp) := by
  obtain ⟨v, rfl, rfl⟩ | ⟨x, u, v, rfl, rfl⟩ | ⟨rfl, rfl⟩ | ⟨rfl, rfl⟩ | ⟨x, rfl, rfl⟩ | ⟨x, rfl, rfl⟩ | ⟨x, hi, rfl⟩ |
    ⟨rfl, rfl⟩ := exec_cases h
  · exact .inr ⟨fun y => by cases y <;> nofun, s.setMasterPeriod_rsp _ v⟩
  · exact .inr ⟨fun y => by cases x <;> cases y <;> nofun, s.setPeriod_rsp x u v⟩
  · exact .inr ⟨fun y => by cases y <;> nofun, rfl⟩
  · exact .inr ⟨fun y => by cases y <;> nofun, rfl⟩
  · exact .inr ⟨fun y => by cases x <;> cases y <;> nofun, s.resetPhase_rsp x⟩
  · exact .inr ⟨fun y => by cases x <;> cases y <;> nofun, s.toggle_rsp x⟩
  · exact .inl ⟨x, hi, rfl⟩
  · exact .inr ⟨fun y => by cases y <;> nofun, s.clockMaster_rsp⟩

theorem step_of_reserved {s : State} {w : CmdWord} {rest : List Event} (hs : s.inputs = .cmd w :: rest)
    (hw : decodeCommand w = none) : step s = .refused (.reservedEncoding w) := by
  rw [step_of_event hs, applyEvent, applyCommand, hw]

end Sys2Proof.Machine

namespace Sys2Proof.Proofs

open Sys2Proof.Machine

/-- Settles O2: the listed words are the encoder's, and a word that decodes is its instruction's own. -/
theorem legalWordsAreTheListedOnes : Obligations.LegalWordsAreTheListedOnes := by
  unfold Obligations.LegalWordsAreTheListedOnes
  refine ⟨fun t => decodeCommand_encode (i := .msset t) nofun, fun t c => decodeCommand_encode (i := .pgsetA t c) nofun,
    fun t c => decodeCommand_encode (i := .pgsetB t c) nofun, fun t c => decodeCommand_encode (i := .pgsetC t c) nofun,
    by decide, by decide, by decide, by decide, by decide, by decide, by decide, by decide, by decide, by decide,
    by decide, by decide, fun w hop => ?opSeven, fun w i h => ?port, fun w h => ?listed⟩
  case opSeven => exact (decodeCommand_eq_none_iff w).2 (.inr ((opField_toNat w).trans hop))
  case port => exact ⟨decode_of_decodeCommand h, ne_tick_of_decodeCommand h⟩
  case listed =>
    obtain ⟨i, hi⟩ := Option.ne_none_iff_exists'.1 h
    obtain rfl := encode_of_decode hi
    cases i
    case msset t => exact .inl ⟨t, rfl⟩
    case pgsetA t c => exact .inr (.inl ⟨t, c, .inl rfl⟩)
    case pgsetB t c => exact .inr (.inl ⟨t, c, .inr (.inl rfl)⟩)
    case pgsetC t c => exact .inr (.inl ⟨t, c, .inr (.inr rfl)⟩)
    all_goals exact .inr (.inr (by decide))

/-- Settles O4: the classes of R47 by fields, with each field the quotient of the word that R41 says. -/
theorem reservedWordsAreClassesAToG : Obligations.ReservedWordsAreClassesAToG := by
  unfold Obligations.ReservedWordsAreClassesAToG
  intro w
  refine ⟨?classes, ?port, decode_eq_none_iff_no_row w⟩
  case classes =>
    rw [decode_eq_none_iff_fields]
    simp only [ne_eq, ← BitVec.toNat_inj, opField_toNat, selField_toNat, rsvField_toNat, ticksField_toNat,
      capField_toNat, BitVec.toNat_ofNat]
  case port => rw [decodeCommand_eq_none_iff, opField_toNat]

/-- Settles O19: a query writes the negated output, and every other instruction keeps `rsp`. -/
theorem onlyQueriesWriteRsp : Obligations.OnlyQueriesWriteRsp := by
  unfold Obligations.OnlyQueriesWriteRsp
  intro i s t h
  obtain ⟨x, rfl, rfl⟩ | hkept := exec_rsp_cases h
  · exact .inl ⟨x, rfl, s.query_rsp x⟩
  · exact .inr hkept

/-- Settles O1: each word of V6 put through the decoder. -/
theorem specWordsDecode : Obligations.SpecWordsDecode := by
  unfold Obligations.SpecWordsDecode
  refine ⟨by decide, by decide, by decide, by decide, by decide, by decide, by decide, by decide, by decide, by decide,
    by decide, by decide, by decide, fun w hw => ?reserved⟩
  case reserved => fin_cases hw <;> decide

/-- Settles O5: a word the port does not decode has no instruction to run, and `PGSET.x 0, c` is a command like any other. -/
theorem reservedCommandIsRefused : Obligations.ReservedCommandIsRefused := by
  unfold Obligations.ReservedCommandIsRefused
  refine ⟨fun s w rest hs hw => step_of_reserved hs hw, fun x c => decodeCommand_encode ?_⟩
  cases x <;> nofun

end Sys2Proof.Proofs

namespace Sys2Proof.Machine

/-! ## Numbers as text (R52) -/

theorem digitValue_ofNat {d : Nat} (h : d < 10) : digitValue (Char.ofNat (48 + d)) = some d := by decide +revert

theorem isDigit_ofNat {d : Nat} (h : d < 10) : (Char.ofNat (48 + d)).isDigit = true := by decide +revert

theorem readDigits_cons_ofNat {d : Nat} (h : d < 10) (acc : Nat) (cs : List Char) :
    readDigits 10 acc (Char.ofNat (48 + d) :: cs) = readDigits 10 (acc * 10 + d) cs := by
  simp only [readDigits, digitValue_ofNat h, if_pos h]

/-- Reading the digits of `n` leaves `n` in front of what follows them. -/
theorem readDigits_digitsOnto {fuel n : Nat} (h : n < fuel) (tail : List Char) :
    readDigits 10 0 (digitsOnto fuel n tail) = readDigits 10 n tail := by
  induction fuel generalizing n tail with
  | zero => omega
  | succ fuel ih =>
    rw [digitsOnto]
    split
    case isTrue hn => rw [readDigits_cons_ofNat hn, Nat.zero_mul, Nat.zero_add]
    case isFalse hn =>
      rw [ih (by omega), readDigits_cons_ofNat (Nat.mod_lt n (by decide)), Nat.div_add_mod']

theorem forall_isDigit_digitsOnto (fuel n : Nat) {tail : List Char} (h : ∀ c ∈ tail, c.isDigit = true) :
    ∀ c ∈ digitsOnto fuel n tail, c.isDigit = true := by
  induction fuel generalizing n tail with
  | zero => exact h
  | succ fuel ih =>
    rw [digitsOnto]
    split
    case isTrue hn => exact List.forall_mem_cons.2 ⟨isDigit_ofNat hn, h⟩
    case isFalse hn => exact ih _ (List.forall_mem_cons.2 ⟨isDigit_ofNat (Nat.mod_lt n (by decide)), h⟩)

theorem digitsOnto_ne_nil (fuel n : Nat) {tail : List Char} (h : tail ≠ []) : digitsOnto fuel n tail ≠ [] := by
  induction fuel generalizing n tail with
  | zero => exact h
  | succ fuel ih =>
    rw [digitsOnto]
    split
    · exact List.cons_ne_nil _ _
    · exact ih _ (List.cons_ne_nil _ _)

theorem decimal_ne_nil (n : Nat) : decimal n ≠ [] := by
  rw [decimal, digitsOnto]
  split
  · exact List.cons_ne_nil _ _
  · exact digitsOnto_ne_nil _ _ (List.cons_ne_nil _ _)

theorem isDigit_of_mem_decimal {n : Nat} {c : Char} (h : c ∈ decimal n) : c.isDigit = true :=
  forall_isDigit_digitsOnto (n + 1) n (by simp) c h

/-- Digits are read as decimal: no `x` stands among them. -/
theorem readNumber_of_digits {cs : List Char} (hne : cs ≠ []) (h : ∀ c ∈ cs, c.isDigit = true) :
    readNumber cs = readDigits 10 0 cs := by
  unfold readNumber
  split
  · exact absurd rfl hne
  · exact absurd (h 'x' (by simp)) (by decide)
  · rfl

theorem readNumber_decimal (n : Nat) : readNumber (decimal n) = some n := by
  rw [readNumber_of_digits (decimal_ne_nil n) fun c => isDigit_of_mem_decimal, decimal,
    readDigits_digitsOnto n.lt_succ_self, readDigits]

/-! ## The characters of a line (R52) -/

/-- A character that neither ends a name nor begins a comment. -/
def isNameChar (c : Char) : Bool := !isBlank c && c != ';'

theorem isNameChar_of_isDigit {c : Char} (h : c.isDigit = true) : isNameChar c = true := by
  have hne (d : Char) (hd : d.isDigit = false) : c ≠ d := by
    rintro rfl
    exact absurd h (by simp [hd])
  simp [isNameChar, isBlank, hne ' ' (by decide), hne '\t' (by decide), hne ';' (by decide)]

theorem ne_comma_of_isDigit {c : Char} (h : c.isDigit = true) : c ≠ ',' := by
  rintro rfl
  exact absurd h (by decide)

theorem isBlank_eq_false_of_isNameChar {c : Char} (h : isNameChar c = true) : isBlank c = false := by
  simp only [isNameChar, Bool.and_eq_true, Bool.not_eq_true'] at h
  exact h.1

theorem ne_semicolon_of_isNameChar {c : Char} (h : isNameChar c = true) : c ≠ ';' := by
  simp only [isNameChar, Bool.and_eq_true, bne_iff_ne] at h
  exact h.2

/-- A piece of a line between blanks. -/
def IsName (cs : List Char) : Prop := cs ≠ [] ∧ cs.all isNameChar = true

theorem IsName.isNameChar {cs : List Char} (h : IsName cs) {c : Char} (hc : c ∈ cs) : isNameChar c = true :=
  List.all_eq_true.1 h.2 c hc

theorem IsName.isBlank_eq_false {cs : List Char} (h : IsName cs) {c : Char} (hc : c ∈ cs) : isBlank c = false :=
  isBlank_eq_false_of_isNameChar (h.isNameChar hc)

theorem IsName.ne_semicolon {cs : List Char} (h : IsName cs) {c : Char} (hc : c ∈ cs) : c ≠ ';' :=
  ne_semicolon_of_isNameChar (h.isNameChar hc)

theorem IsName.reverse {cs : List Char} (h : IsName cs) : IsName cs.reverse := by
  simpa [IsName] using h

theorem isName_decimal (n : Nat) : IsName (decimal n) :=
  ⟨decimal_ne_nil n, List.all_eq_true.2 fun _ hc => isNameChar_of_isDigit (isDigit_of_mem_decimal hc)⟩

theorem nameOf_ticks (n : Nat) : nameOf (.ticks n) = "TICK*".toList ++ decimal n := rfl

/-- The mnemonics of the opcode table are names (R46, R52). -/
theorem isName_of_mem_opcodeTable : ∀ name ∈ opcodeTable.map Row.mnemonic, IsName name.toList := by
  unfold IsName
  decide

theorem isName_nameOf {l : ListLine} (h : l ≠ .blank) : IsName (nameOf l) := by
  cases l with
  | blank => exact absurd rfl h
  | reset => exact ⟨List.cons_ne_nil _ _, rfl⟩
  | instr i => exact isName_of_mem_opcodeTable _ (mnemonicOf_mem_opcodeTable i)
  | ticks n =>
    have hstar : "TICK*".toList.all isNameChar = true := by decide
    refine ⟨List.cons_ne_nil _ _, ?_⟩
    rw [nameOf_ticks, List.all_append, hstar, (isName_decimal n).2, Bool.and_self]
  | ctrlCycle b c f => exact ⟨List.cons_ne_nil _ _, rfl⟩
  | boot tm ta tb tc cap => exact ⟨List.cons_ne_nil _ _, rfl⟩

/-! ## Spaces at the ends -/

theorem dropWhile_isBlank_of_prefix {a cs : List Char} (ha : IsName a) (h : a <+: cs) : cs.dropWhile isBlank = cs := by
  obtain ⟨rest, rfl⟩ := h
  cases a with
  | nil => exact absurd rfl ha.1
  | cons c a =>
    have hc : isBlank c = false := ha.isBlank_eq_false List.mem_cons_self
    exact List.dropWhile_cons_of_neg (by simp [hc])

/-- Text that begins and ends with a name is trimmed to itself. -/
theorem trim_eq_self {a b cs : List Char} (ha : IsName a) (hb : IsName b) (hacs : a <+: cs) (hbcs : b <:+ cs) :
    trim cs = cs := by
  rw [trim, dropWhile_isBlank_of_prefix ha hacs, dropWhile_isBlank_of_prefix hb.reverse (List.reverse_prefix.2 hbcs),
    List.reverse_reverse]

theorem trim_name {cs : List Char} (h : IsName cs) : trim cs = cs :=
  trim_eq_self h h ⟨[], List.append_nil _⟩ List.suffix_rfl

theorem trim_blanks_append {blanks : List Char} (h : ∀ c ∈ blanks, isBlank c = true) (cs : List Char) :
    trim (blanks ++ cs) = trim cs := by
  rw [trim, List.dropWhile_append_of_pos h, trim]

/-! ## Operands between commas (R52) -/

theorem commaParts_append {cs : List Char} (h : ∀ c ∈ cs, c ≠ ',') (cur rest : List Char) :
    commaParts cur (cs ++ rest) = commaParts (cs.reverse ++ cur) rest := by
  induction cs generalizing cur with
  | nil => rfl
  | cons c cs ih =>
    obtain ⟨hc, hcs⟩ := List.forall_mem_cons.1 h
    rw [List.cons_append, commaParts, if_neg hc, ih hcs, List.reverse_cons, List.append_assoc]
    rfl

theorem commaParts_decimal_append (n : Nat) (blanks rest : List Char) :
    commaParts blanks.reverse (decimal n ++ rest) = commaParts (blanks ++ decimal n).reverse rest := by
  rw [commaParts_append fun c hc => ne_comma_of_isDigit (isDigit_of_mem_decimal hc), List.reverse_append]

/-- An operand is read whatever blanks stand in front of it. -/
theorem readNumber_trim_decimal {blanks : List Char} (h : ∀ c ∈ blanks, isBlank c = true) (n : Nat) :
    readNumber (trim (blanks ++ decimal n)) = some n := by
  rw [trim_blanks_append h, trim_name (isName_decimal n), readNumber_decimal]

/-- The operands a line writes are the numbers between its commas, whatever blanks stand in front of the first. -/
theorem mapM_commaParts_writeOperands {blanks : List Char} (h : ∀ c ∈ blanks, isBlank c = true) (n : Nat)
    (ns : List Nat) :
    (commaParts blanks.reverse (writeOperands (n :: ns))).mapM (fun part => readNumber (trim part)) = some (n :: ns) := by
  induction ns generalizing n blanks with
  | nil =>
    rw [writeOperands, ← List.append_nil (decimal n), commaParts_decimal_append, commaParts, List.reverse_reverse]
    simp [readNumber_trim_decimal h]
  | cons m ns ih =>
    have hnext : (commaParts [] (' ' :: writeOperands (m :: ns))).mapM (fun part => readNumber (trim part)) =
        some (m :: ns) := ih (blanks := [' ']) (by simp [isBlank]) m
    rw [writeOperands, commaParts_decimal_append, commaParts, if_pos rfl, List.reverse_reverse, List.mapM_cons, hnext,
      readNumber_trim_decimal h]
    rfl

theorem writeOperands_ne_nil (n : Nat) (ns : List Nat) : writeOperands (n :: ns) ≠ [] := by
  cases ns with
  | nil => exact decimal_ne_nil n
  | cons m ns => simp [writeOperands]

theorem readOperands_of_ne_nil {cs : List Char} (h : cs ≠ []) :
    readOperands cs = (commaParts [] cs).mapM (fun part => readNumber (trim part)) := by
  cases cs with
  | nil => exact absurd rfl h
  | cons c cs => rfl

theorem readOperands_writeOperands (ns : List Nat) : readOperands (writeOperands ns) = some ns := by
  cases ns with
  | nil => rfl
  | cons n ns =>
    rw [readOperands_of_ne_nil (writeOperands_ne_nil n ns)]
    exact mapM_commaParts_writeOperands (blanks := []) (by simp) n ns

theorem decimal_prefix_writeOperands (n : Nat) (ns : List Nat) : decimal n <+: writeOperands (n :: ns) := by
  cases ns with
  | nil => exact ⟨[], List.append_nil _⟩
  | cons m ns => exact ⟨_, rfl⟩

theorem decimal_suffix_writeOperands (n : Nat) (ns : List Nat) : ∃ m, decimal m <:+ writeOperands (n :: ns) := by
  induction ns generalizing n with
  | nil => exact ⟨n, List.suffix_rfl⟩
  | cons m ns ih =>
    obtain ⟨k, hk⟩ := ih m
    exact ⟨k, hk.trans ⟨decimal n ++ [',', ' '], by simp [writeOperands]⟩⟩

theorem trim_writeOperands (ns : List Nat) : trim (writeOperands ns) = writeOperands ns := by
  cases ns with
  | nil => rfl
  | cons n ns =>
    obtain ⟨m, hm⟩ := decimal_suffix_writeOperands n ns
    exact trim_eq_self (isName_decimal n) (isName_decimal m) (decimal_prefix_writeOperands n ns) hm

theorem ne_semicolon_of_mem_writeOperands {ns : List Nat} {c : Char} (h : c ∈ writeOperands ns) : c ≠ ';' := by
  induction ns with
  | nil => cases h
  | cons n ns ih =>
    cases ns with
    | nil => exact (isName_decimal n).ne_semicolon h
    | cons m ns =>
      simp only [writeOperands, List.mem_append, List.mem_cons] at h
      obtain h | rfl | rfl | h := h
      · exact (isName_decimal n).ne_semicolon h
      · decide
      · decide
      · exact ih h

/-! ## The two parts of a written line (R52) -/

/-- What stands after the name of a line: nothing, or a space and the operands. -/
def afterName : List Nat → List Char
  | [] => []
  | n :: ns => ' ' :: writeOperands (n :: ns)

theorem writeLine_eq (l : ListLine) : writeLine l = nameOf l ++ afterName (lineOperands l) := by
  rw [writeLine]
  cases lineOperands l with
  | nil => exact (List.append_nil _).symm
  | cons n ns => rfl

theorem ne_semicolon_of_mem_afterName {ns : List Nat} {c : Char} (h : c ∈ afterName ns) : c ≠ ';' := by
  cases ns with
  | nil => cases h
  | cons n ns =>
    obtain rfl | h := List.mem_cons.1 h
    · decide
    · exact ne_semicolon_of_mem_writeOperands h

theorem trim_afterName (ns : List Nat) : trim (afterName ns) = writeOperands ns := by
  cases ns with
  | nil => rfl
  | cons n ns => exact (trim_blanks_append (blanks := [' ']) (by simp [isBlank]) _).trans (trim_writeOperands _)

/-- A name ends where the blank before the operands stands. -/
theorem takeWhile_name_afterName {name : List Char} (h : IsName name) (ns : List Nat) :
    (name ++ afterName ns).takeWhile (fun a => !isBlank a) = name := by
  rw [List.takeWhile_append_of_pos fun c hc => by simp [h.isBlank_eq_false hc]]
  cases ns with
  | nil => exact List.append_nil _
  | cons n ns => exact List.append_nil _

theorem dropWhile_name_afterName {name : List Char} (h : IsName name) (ns : List Nat) :
    (name ++ afterName ns).dropWhile (fun a => !isBlank a) = afterName ns := by
  rw [List.dropWhile_append_of_pos fun c hc => by simp [h.isBlank_eq_false hc]]
  cases ns with
  | nil => rfl
  | cons n ns => rfl

theorem withoutComment_name_afterName {name : List Char} (h : IsName name) (ns : List Nat) :
    withoutComment (name ++ afterName ns) = name ++ afterName ns := by
  rw [withoutComment, List.takeWhile_eq_self_iff]
  intro c hc
  have hne : c ≠ ';' := (List.mem_append.1 hc).elim (fun hc => h.ne_semicolon hc) ne_semicolon_of_mem_afterName
  simpa using hne

theorem trim_name_afterName {name : List Char} (h : IsName name) (ns : List Nat) :
    trim (name ++ afterName ns) = name ++ afterName ns := by
  cases ns with
  | nil => rw [afterName, List.append_nil, trim_name h]
  | cons n ns =>
    obtain ⟨m, hm⟩ := decimal_suffix_writeOperands n ns
    exact trim_eq_self h (isName_decimal m) ⟨_, rfl⟩
      ((hm.trans (List.suffix_cons _ _)).trans (List.suffix_append _ _))

/-- Reading text that holds something finds its name and its operands. -/
theorem readLine_of_ne_nil {cs : List Char} (h : trim (withoutComment cs) ≠ []) :
    readLine cs =
      (readOperands (trim ((trim (withoutComment cs)).dropWhile (fun a => !isBlank a)))).bind
        (lineOf ((trim (withoutComment cs)).takeWhile (fun a => !isBlank a))) := by
  rw [readLine]
  generalize trim (withoutComment cs) = text at h ⊢
  cases text with
  | nil => exact absurd rfl h
  | cons c body =>
    dsimp only
    cases readOperands (trim ((c :: body).dropWhile (fun a => !isBlank a))) <;> rfl

/-- Reading a written line finds the name and the operands it was written from. -/
theorem readLine_writeLine {l : ListLine} (h : l ≠ .blank) :
    readLine (writeLine l) = lineOf (nameOf l) (lineOperands l) := by
  have hname := isName_nameOf h
  have htext : trim (withoutComment (writeLine l)) = nameOf l ++ afterName (lineOperands l) := by
    rw [writeLine_eq, withoutComment_name_afterName hname, trim_name_afterName hname]
  have hne : trim (withoutComment (writeLine l)) ≠ [] := by
    rw [htext]
    exact List.append_ne_nil_of_left_ne_nil hname.1 _
  rw [readLine_of_ne_nil hne, htext, takeWhile_name_afterName hname, dropWhile_name_afterName hname, trim_afterName,
    readOperands_writeOperands, Option.bind_some]

/-! ## A line from its name and its operands (R52, R53) -/

theorem readWord_toNat (v : Word) : readWord v.toNat = some v := by
  have hv : v.toNat ≤ MAXW := Nat.le_of_lt_succ v.isLt
  rw [readWord, if_pos hv, BitVec.ofNat_toNat, BitVec.setWidth_eq]

theorem nameOf_pgset_inj {x y : Gen} (t c : Word) :
    nameOf (.instr (Instr.pgset x t c)) = nameOf (.instr (Instr.pgset y t c)) ↔ x = y := by
  have hname (z : Gen) : nameOf (.instr (Instr.pgset z t c)) = nameOf (.instr (Instr.pgset z 0 0)) := by
    cases z <;> rfl
  rw [hname x, hname y]
  cases x <;> cases y <;> decide

theorem lineOf_pgset (x : Gen) (t c : Word) :
    lineOf (nameOf (.instr (Instr.pgset x t c))) [t.toNat, c.toNat] = some (.instr (Instr.pgset x t c)) := by
  have hfind : [Gen.A, Gen.B, Gen.C].find? (fun y => y = x) = some x := by cases x <;> rfl
  simp only [lineOf, readWord_toNat, nameOf_pgset_inj, hfind, Option.map_some]

/-- No line without operands begins as `TICK*n` does. -/
theorem plainLines_take_ne : ∀ l ∈ plainLines, (nameOf l).take 5 ≠ "TICK*".toList := by decide

theorem take_nameOf_ticks (n : Nat) : (nameOf (.ticks n)).take 5 = "TICK*".toList := rfl

theorem readTicks_nameOf_ticks (n : Nat) : readTicks (nameOf (.ticks n)) = some (.ticks n) := by
  have hdrop : (nameOf (.ticks n)).drop 5 = decimal n := rfl
  rw [readTicks, if_pos (take_nameOf_ticks n), hdrop, readNumber_decimal, Option.map_some]

theorem lineOf_ticks (n : Nat) : lineOf (nameOf (.ticks n)) [] = some (.ticks n) := by
  have hplain : plainLines.find? (fun l => nameOf l = nameOf (.ticks n)) = none := by
    refine List.find?_eq_none.2 fun l hl hname => plainLines_take_ne l hl ?_
    rw [of_decide_eq_true hname, take_nameOf_ticks]
  rw [lineOf, hplain]
  exact readTicks_nameOf_ticks n

theorem lineOf_nameOf {l : ListLine} (h : l ≠ .blank) : lineOf (nameOf l) (lineOperands l) = some l := by
  cases l with
  | blank => exact absurd rfl h
  | reset => rfl
  | instr i =>
    cases i
    case msset t =>
      show lineOf "MSSET".toList [t.toNat] = _
      rw [lineOf, if_pos rfl, readWord_toNat]
      rfl
    case pgsetA t c => exact lineOf_pgset .A t c
    case pgsetB t c => exact lineOf_pgset .B t c
    case pgsetC t c => exact lineOf_pgset .C t c
    all_goals rfl
  | ticks n => exact lineOf_ticks n
  | ctrlCycle b c f => rfl
  | boot tm ta tb tc cap =>
    simp only [lineOperands, lineOf, readWord_toNat]
    rfl

end Sys2Proof.Machine

namespace Sys2Proof.Proofs

open Sys2Proof.Machine

/-- Settles O52: the reader finds the name and the operands that the line was written from, and these give the line. -/
theorem listingReadsBack : Obligations.ListingReadsBack := by
  unfold Obligations.ListingReadsBack
  intro l
  by_cases h : l = .blank
  · rw [h]
    rfl
  · rw [readLine_writeLine h, lineOf_nameOf h]

end Sys2Proof.Proofs

namespace Sys2Proof.Machine

/-! ## The view A's evolution depends on, as a machine of its own (R76) -/

/-- A `TICK` on the master's period and counter and on A, computed from these three alone (R85, R86). -/
def tickOfA : Word × Word × PulseGen → Word × Word × PulseGen
  | (period, pos, g) => if exceeds (advance pos) period then (period, 0, g.clock) else (period, advance pos, g)

/-- An instruction on the master's period and counter and on A, computed from these three alone. -/
def effectOnA : Instr → Word × Word × PulseGen → Word × Word × PulseGen
  | .msset v, (_, pos, g) => (msPeriodOf Config.msPeriodBias v, pos, g)
  | .pgsetA u v, (period, pos, g) => (period, pos, g.setPeriod u v)
  | .pgrstA, (period, pos, g) => (period, pos, g.resetPhase)
  | .pgtogA, (period, pos, g) => (period, pos, g.toggle)
  | .tick, view => tickOfA view
  | _, view => view

theorem State.clockMaster_viewOfA (s : State) : (s.clockMaster .afterA).viewOfA = tickOfA s.viewOfA := by
  have hw : exceeds (advance s.ms.pos) s.ms.period = s.ms.wraps := rfl
  obtain ⟨h, e⟩ | ⟨h, -, e⟩ | ⟨h, ha, e⟩ := s.clockMaster_cases
  · simp [e, State.viewOfA, tickOfA, hw, h]
  · simp [e, State.viewOfA, tickOfA, hw, h]
  · simp [e, State.viewOfA, tickOfA, hw, h, PulseGen.clock_of_wraps ha]

/-- What any instruction makes of A and the master's counter is a function of A and the master's counter. -/
theorem exec_viewOfA {i : Instr} {s t : State} (h : exec i s = .next t) : t.viewOfA = effectOnA i s.viewOfA := by
  cases i <;> cases h
  case tick => exact s.clockMaster_viewOfA
  all_goals rfl

@[simp] theorem State.clockMaster_resets (s : State) : (s.clockMaster .afterA).resets = s.resets := by
  obtain ⟨-, e⟩ | ⟨-, -, e⟩ | ⟨-, -, e⟩ := s.clockMaster_cases <;> rw [e]

/-- No instruction is a `RESET`: none advances the number of the next draw. -/
theorem exec_resets {i : Instr} {s t : State} (h : exec i s = .next t) : t.resets = s.resets := by
  cases i <;> cases h
  case tick => exact s.clockMaster_resets
  all_goals rfl

/-! ## Two runs that agree on A (R76) -/

/-- The two states agree on the master's period and counter, on A and on the number of the next draw. -/
def State.AgreeOnA (s s' : State) : Prop := s.viewOfA = s'.viewOfA ∧ s.resets = s'.resets

/-- Both answer a next state and these agree on A, or both are refused for the same reason. -/
def OutcomesAgreeOnA (o o' : Host.Outcome State Fault Refusal) : Prop :=
  (∃ t t', o = .next t ∧ o' = .next t' ∧ t.AgreeOnA t') ∨ ∃ r, o = .refused r ∧ o' = .refused r

theorem exec_agreeOnA (i : Instr) {s s' : State} (h : s.AgreeOnA s') : OutcomesAgreeOnA (exec i s) (exec i s') := by
  obtain ⟨hview, hresets⟩ := h
  obtain ⟨t, ht⟩ := exec_completes i s
  obtain ⟨t', ht'⟩ := exec_completes i s'
  have hv : t.viewOfA = t'.viewOfA := by rw [exec_viewOfA ht, exec_viewOfA ht', hview]
  have hr : t.resets = t'.resets := by rw [exec_resets ht, exec_resets ht', hresets]
  exact .inl ⟨t, t', ht, ht', hv, hr⟩

/-- A `RESET` gives both states the same draw, since they agree on its number; a reserved word is refused in both. -/
theorem applyEvent_agreeOnA (e : Event) {s s' : State} (h : s.AgreeOnA s') :
    OutcomesAgreeOnA (applyEvent e s) (applyEvent e s') := by
  cases e with
  | reset =>
    obtain ⟨-, hresets⟩ := h
    refine .inl ⟨_, _, rfl, rfl, ?_, ?_⟩
    · rw [hresets]; rfl
    · rw [State.applyReset_resets, State.applyReset_resets, hresets]
  | tick => exact exec_agreeOnA .tick h
  | cmd w =>
    cases hd : decodeCommand w with
    | none =>
      have hrefused (u : State) : applyEvent (.cmd w) u = .refused (.reservedEncoding w) := by
        rw [applyEvent, applyCommand, hd]
      exact .inr ⟨.reservedEncoding w, hrefused s, hrefused s'⟩
    | some i =>
      rw [applyEvent_cmd hd, applyEvent_cmd hd]
      exact exec_agreeOnA i h

theorem runEvents_agreeOnA (es : List Event) {s s' : State} (h : s.AgreeOnA s') :
    OutcomesAgreeOnA (runEvents es s) (runEvents es s') := by
  induction es generalizing s s' with
  | nil => exact .inl ⟨s, s', rfl, rfl, h⟩
  | cons e es ih =>
    rw [runEvents_cons, runEvents_cons]
    obtain ⟨t, t', ht, ht', hagree⟩ | ⟨r, hr, hr'⟩ := applyEvent_agreeOnA e h
    · rw [ht, ht']; exact ih hagree
    · rw [hr, hr']; exact .inr ⟨r, rfl, rfl⟩

/-! ## Calls of `PGclock` in a row -/

/-- `n` calls of `PGclock` followed by a call. -/
theorem PulseGen.clocked_succ_last (n : Nat) (g : PulseGen) :
    PulseGen.clocked (n + 1) g = (PulseGen.clocked n g).clock := by
  induction n generalizing g with
  | zero => rfl
  | succ n ih => exact ih g.clock

@[simp] theorem PulseGen.clocked_period (n : Nat) (g : PulseGen) : (PulseGen.clocked n g).period = g.period := by
  induction n with
  | zero => rfl
  | succ n ih => rw [PulseGen.clocked_succ_last, PulseGen.clock_period, ih]

@[simp] theorem PulseGen.clocked_duty (n : Nat) (g : PulseGen) : (PulseGen.clocked n g).duty = g.duty := by
  induction n with
  | zero => rfl
  | succ n ih => rw [PulseGen.clocked_succ_last, PulseGen.clock_duty, ih]

/-- A pulsing generator runs through its waveform (R74). -/
theorem PulseGen.clocked_eq_atSubStep {g : PulseGen} (hf : g.FreshlyReset) (hp : g.Pulsing) (k : Nat) :
    PulseGen.clocked k g = g.atSubStep k := by
  induction k with
  | zero => exact (PulseGen.atSubStep_zero hf hp).symm
  | succ k ih => rw [PulseGen.clocked_succ_last, ih, PulseGen.atSubStep_clock hp]

/-- From a common cycle start the machine runs through `atTick` (R74, R89). -/
theorem runTicks_eq_atTick {s : State} (h : s.Aligned) (n : Nat) : runTicks n s = .next (s.atTick n) := by
  induction n with
  | zero => rw [State.atTick_zero h]; rfl
  | succ n ih => rw [runTicks_succ_last n ih, State.atTick_clockMaster h]

/-! ## The degenerate period `MAXW` (R62) -/

theorem advance_eq_zero_iff (p : Word) : advance p = 0 ↔ (p.toNat + 1) % 65536 = 0 := by
  rw [← BitVec.toNat_inj, advance_toNat]; rfl

/-- No counter exceeds `MAXW`. -/
theorem PulseGen.wraps_of_period_max {g : PulseGen} (h : g.period.toNat = MAXW) : g.wraps = false := by
  rw [← Bool.not_eq_true, PulseGen.wraps_iff, h, MAXW]
  omega

theorem PulseGen.clocked_pos_of_period_max {g : PulseGen} (h : g.period.toNat = MAXW) (n : Nat) :
    (PulseGen.clocked n g).pos.toNat = (g.pos.toNat + n) % 2 ^ 16 := by
  induction n with
  | zero => exact (Nat.mod_eq_of_lt g.pos.isLt).symm
  | succ n ih =>
    have hw : (PulseGen.clocked n g).wraps = false := PulseGen.wraps_of_period_max (by rwa [PulseGen.clocked_period])
    rw [PulseGen.clocked_succ_last, PulseGen.clock_of_not_wraps hw, advance_toNat, ih]
    omega

/-- The output falls at the pass from `MAXW` to 0, where `pos` meets `duty = 0`, and nothing raises it again. -/
theorem PulseGen.clocked_out_of_period_max {g : PulseGen} (h : g.period.toNat = MAXW) (hd : g.duty = 0) (n : Nat) :
    (PulseGen.clocked n g).out = (g.out && decide (g.pos.toNat + n < 2 ^ 16)) := by
  induction n with
  | zero =>
    have hlt : decide (g.pos.toNat + 0 < 2 ^ 16) = true := decide_eq_true g.pos.isLt
    rw [hlt, Bool.and_true]; rfl
  | succ n ih =>
    have hw : (PulseGen.clocked n g).wraps = false := PulseGen.wraps_of_period_max (by rwa [PulseGen.clocked_period])
    have hzero : advance (PulseGen.clocked n g).pos = 0 ↔ (g.pos.toNat + n + 1) % 65536 = 0 := by
      rw [advance_eq_zero_iff, PulseGen.clocked_pos_of_period_max h]; omega
    rw [PulseGen.clocked_succ_last, PulseGen.clock_of_not_wraps hw]
    simp only [PulseGen.outAtDuty, PulseGen.clocked_duty, hd, hzero, ih]
    split
    case isTrue hfalls =>
      have hpast : ¬ g.pos.toNat + (n + 1) < 2 ^ 16 := by omega
      rw [decide_eq_false hpast, Bool.and_false]
    case isFalse hkeeps =>
      have hsame : g.pos.toNat + n < 2 ^ 16 ↔ g.pos.toNat + (n + 1) < 2 ^ 16 := by omega
      rw [decide_eq_decide.2 hsame]

/-! ## Period 0 (R71) -/

theorem PulseGen.wraps_of_period_zero {g : PulseGen} (hp : g.period = 0) (hpos : g.pos = 0) : g.wraps = true := by
  rw [PulseGen.wraps_iff, hp, hpos]; decide

theorem PulseGen.clocked_pos_of_period_zero {g : PulseGen} (hp : g.period = 0) (hpos : g.pos = 0) (n : Nat) :
    (PulseGen.clocked n g).pos = 0 := by
  induction n with
  | zero => exact hpos
  | succ n ih =>
    have hw := PulseGen.wraps_of_period_zero ((PulseGen.clocked_period n g).trans hp) ih
    rw [PulseGen.clocked_succ_last, PulseGen.clock_of_wraps hw]

/-! ## An output held high by `duty = 0` (R70) -/

/-- What every `TICK` keeps, any number of them keeps. -/
theorem runTicks_invariant {P : State → Prop} (hP : ∀ s, P s → P (s.clockMaster .afterA)) (n : Nat) {s : State}
    (h : P s) : ∃ t, runTicks n s = .next t ∧ P t := by
  induction n with
  | zero => exact ⟨s, rfl, h⟩
  | succ n ih =>
    obtain ⟨t, ht, hPt⟩ := ih
    exact ⟨_, runTicks_succ_last n ht, hP t hPt⟩

/-- The generator is high, in its cycle, and has the pulse-end index 0. -/
def PulseGen.HighAtZeroDuty (g : PulseGen) : Prop := g.duty = 0 ∧ g.InCycle ∧ g.out = true

theorem PulseGen.HighAtZeroDuty.resetPhase {g : PulseGen} (h : g.HighAtZeroDuty) : g.resetPhase.HighAtZeroDuty := by
  obtain ⟨hduty, hcycle, -⟩ := h
  exact ⟨hduty, hcycle.resetPhase, rfl⟩

/-- Within a cycle the advanced `pos` is never 0, so the duty check does not lower the output; a wrap raises it. -/
theorem PulseGen.HighAtZeroDuty.clock {g : PulseGen} (h : g.HighAtZeroDuty) : g.clock.HighAtZeroDuty := by
  obtain ⟨hduty, hcycle, hout⟩ := h
  refine ⟨by rw [PulseGen.clock_duty, hduty], hcycle.clock, ?_⟩
  obtain ⟨-, e⟩ | ⟨-, e⟩ := g.clock_cases
  · rw [e]
  · have hne : advance g.pos ≠ g.duty := by
      obtain ⟨hpos, hmax⟩ := hcycle
      rw [BitVec.le_def] at hpos
      rw [hduty, ne_eq, advance_eq_zero_iff]
      unfold MAXW at hmax
      omega
    rw [e, PulseGen.outAtDuty, if_neg hne, hout]

theorem State.clockMaster_highAtZeroDuty {s : State} {x : Gen} (h : (s.pg x).HighAtZeroDuty) :
    ((s.clockMaster .afterA).pg x).HighAtZeroDuty := by
  obtain e | e | e := s.clockMaster_pg_cases x <;> rw [e]
  · exact h
  · exact h.clock
  · exact h.resetPhase.clock

/-! ## The registers an update of one generator leaves (R11) -/

theorem State.read_pg (s : State) (x : Gen) (f : PgField) : s.read (.pg x f) = (s.pg x).read f := rfl

@[simp] theorem State.read_noteDegenerate (s : State) (u : Word) (r : Reg) : (s.noteDegenerate u).read r = s.read r := by
  cases r <;> simp [State.read]

/-- Replacing generator `x` writes no other register than those of `x` in which the new one differs. -/
theorem State.sameBut_setPg (s : State) {x : Gen} {g : PulseGen} {written : List Reg}
    (h : ∀ f, .pg x f ∉ written → g.read f = (s.pg x).read f) : s.SameBut (s.setPg x g) written := by
  intro r hr
  cases r with
  | pg y f =>
    rw [State.read_pg, State.read_pg]
    obtain ⟨rfl, e⟩ | e := s.pg_setPg_same_or x y g
    · rw [e]; exact h f hr
    · rw [e]
  | _ => simp [State.read]

theorem State.sameRest_setPg (s : State) (x : Gen) (g : PulseGen) : s.SameRest (s.setPg x g) :=
  ⟨s.setPg_rsp x g, s.setPg_violation x g, s.setPg_resets x g, s.setPg_inputs x g⟩

theorem State.sameBut_setPeriod (s : State) (x : Gen) (u v : Word) :
    s.SameBut (s.setPeriod x u v) [.pg x .period, .pg x .duty] := by
  intro r hr
  rw [State.setPeriod, State.read_noteDegenerate]
  refine s.sameBut_setPg (fun f hf => ?_) r hr
  cases f with
  | period => simp at hf
  | duty => simp at hf
  | pos => rfl
  | out => rfl

theorem State.sameBut_resetPhase (s : State) (x : Gen) : s.SameBut (s.resetPhase x) [.pg x .pos, .pg x .out] := by
  refine s.sameBut_setPg fun f hf => ?_
  cases f with
  | period => rfl
  | duty => rfl
  | pos => simp at hf
  | out => simp at hf

theorem State.sameBut_toggle (s : State) (x : Gen) : s.SameBut (s.toggle x) [.pg x .out] := by
  refine s.sameBut_setPg fun f hf => ?_
  cases f with
  | out => simp at hf
  | _ => rfl

/-- A flipped output bit read as an integer (R68, R69). -/
theorem toNat_not (b : Bool) : (!b).toNat = 1 - b.toNat := by cases b <;> rfl

@[simp] theorem State.setPeriod_pg_self (s : State) (x : Gen) (u v : Word) :
    (s.setPeriod x u v).pg x = (s.pg x).setPeriod u v := by
  rw [State.setPeriod, State.noteDegenerate_pg, State.pg_setPg]

@[simp] theorem State.resetPhase_pg_self (s : State) (x : Gen) : (s.resetPhase x).pg x = (s.pg x).resetPhase :=
  s.pg_setPg x _

@[simp] theorem State.toggle_pg_self (s : State) (x : Gen) : (s.toggle x).pg x = (s.pg x).toggle := s.pg_setPg x _

@[simp] theorem State.setPeriod_resets (s : State) (x : Gen) (u v : Word) : (s.setPeriod x u v).resets = s.resets :=
  s.setPg_resets x _

@[simp] theorem State.setPeriod_violation (s : State) (x : Gen) (u v : Word) :
    (s.setPeriod x u v).violation = (s.violation || u == 0) :=
  congrArg (· || u == 0) (s.setPg_violation x _)

theorem State.setPeriod_read_period (s : State) (x : Gen) (u v : Word) :
    (s.setPeriod x u v).read (.pg x .period) = (u.toNat + 65535) % 65536 := by
  rw [State.read_pg, State.setPeriod_pg_self]
  exact pgPeriodOf_toNat u

theorem State.setPeriod_read_duty (s : State) (x : Gen) (u v : Word) :
    (s.setPeriod x u v).read (.pg x .duty) = min v.toNat (u.toNat / 2) := by
  rw [State.read_pg, State.setPeriod_pg_self]
  exact pgDutyOf_toNat u v

end Sys2Proof.Machine

namespace Sys2Proof.Proofs

open Sys2Proof.Machine

/-- Settles O28: every event, refusals included, is on A's view a function of A's view and of the next draw's number. -/
theorem generatorAIsIsolated : Obligations.GeneratorAIsIsolated := by
  unfold Obligations.GeneratorAIsIsolated
  intro es s s' hview hresets
  obtain ⟨t, t', ht, ht', hagree⟩ | ⟨r, hr, hr'⟩ := runEvents_agreeOnA es ⟨hview, hresets⟩
  · rw [ht, ht']; exact hagree
  · rw [hr, hr']

/-- Settles O35: `k` calls lead to the closed form `atSubStep k`. -/
theorem steadyWaveformOfAGenerator : Obligations.SteadyWaveformOfAGenerator := by
  unfold Obligations.SteadyWaveformOfAGenerator
  intro g k hf hp
  rw [PulseGen.clocked_eq_atSubStep hf hp]
  exact ⟨cyclePos_toNat g.period k, rfl, rfl, rfl⟩

/-- Settles O36: `n` ticks lead to the closed form `atTick n`. -/
theorem alignedMachineInClosedForm : Obligations.AlignedMachineInClosedForm := by
  unfold Obligations.AlignedMachineInClosedForm
  intro s n h
  refine ⟨s.atTick n, runTicks_eq_atTick h n, rfl, cyclePos_toNat s.ms.period n, fun x => ?_⟩
  rw [State.outPort, State.atTick_pg]
  exact ⟨rfl, rfl, cyclePos_toNat (s.pg x).period _, rfl⟩

/-- Settles O42: with `period = MAXW` there is no wrap, and `pos` meets `duty = 0` at the overflow only. -/
theorem degenerateGeneratorFallsSilent : Obligations.DegenerateGeneratorFallsSilent := by
  unfold Obligations.DegenerateGeneratorFallsSilent
  intro g n hp hd
  exact ⟨PulseGen.wraps_of_period_max (by rwa [PulseGen.clocked_period]), PulseGen.clocked_pos_of_period_max hp n,
    PulseGen.clocked_out_of_period_max hp hd n⟩

/-- Settles O43: `HighAtZeroDuty` is an invariant of `TICK`, phase resets included. -/
theorem zeroDutyNeverDeasserts : Obligations.ZeroDutyNeverDeasserts := by
  unfold Obligations.ZeroDutyNeverDeasserts
  intro s x n hduty hcycle hout
  obtain ⟨t, ht, -, -, hhigh⟩ := runTicks_invariant (P := fun u => (u.pg x).HighAtZeroDuty)
    (fun _ => State.clockMaster_highAtZeroDuty) n ⟨hduty, hcycle, hout⟩
  exact ⟨t, ht, hhigh⟩

/-- Settles O44: `pos` stays 0, so that every call is a cycle start. -/
theorem zeroPeriodStartsEverySubStep : Obligations.ZeroPeriodStartsEverySubStep := by
  unfold Obligations.ZeroPeriodStartsEverySubStep
  intro g n hp hpos
  have hn := PulseGen.clocked_pos_of_period_zero hp hpos n
  have hw := PulseGen.wraps_of_period_zero ((PulseGen.clocked_period n g).trans hp) hn
  refine ⟨hw, hn, PulseGen.clocked_pos_of_period_zero hp hpos (n + 1), ?_⟩
  rw [PulseGen.clocked_succ_last, PulseGen.clock_of_wraps hw]

/-- Settles O13: the pair `PGSET` stores, as integers, and the bound it meets from `ticks = 1` on. -/
theorem pgsetSetsPeriodAndDuty : Obligations.PgsetSetsPeriodAndDuty := by
  unfold Obligations.PgsetSetsPeriodAndDuty
  intro x ticks cap s
  refine ⟨s.setPeriod x ticks cap, exec_pgset x ticks cap s, s.setPeriod_read_period x ticks cap,
    s.setPeriod_read_duty x ticks cap, s.sameBut_setPeriod x ticks cap, s.setPeriod_rsp x ticks cap,
    s.setPeriod_resets x ticks cap, s.setPeriod_inputs x ticks cap, fun h1 => ⟨?duty, ?period, ?mark⟩⟩
  case duty => rw [State.setPeriod_read_duty]; exact min_le_right _ _
  case period =>
    have hmax := ticks.isLt
    rw [State.setPeriod_read_period]; omega
  case mark =>
    have hne : ticks ≠ 0 := by rintro rfl; exact absurd h1 (by decide)
    rw [State.setPeriod_violation, beq_false_of_ne hne, Bool.or_false]

/-- Settles O14: the stored pair at `ticks = 0`. -/
theorem pgsetZeroIsDegenerate : Obligations.PgsetZeroIsDegenerate := by
  unfold Obligations.PgsetZeroIsDegenerate
  intro x cap s
  refine ⟨s.setPeriod x 0 cap, exec_pgset x 0 cap s, s.setPeriod_read_period x 0 cap, ?duty, ?mark,
    s.sameBut_setPeriod x 0 cap, s.setPeriod_rsp x 0 cap⟩
  case duty => rw [State.setPeriod_read_duty]; exact Nat.min_zero _
  case mark => rw [State.setPeriod_violation]; exact Bool.or_true _

/-- Settles O16: what `PGresetPhase` writes, its frame, and that it is idempotent. -/
theorem pgrstForcesPhase : Obligations.PgrstForcesPhase := by
  unfold Obligations.PgrstForcesPhase
  intro x s
  refine ⟨s.resetPhase x, exec_pgrst x s, ?pos, ?out, s.sameBut_resetPhase x, s.sameRest_setPg x _, ?twice⟩
  case pos => rw [State.read_pg, State.resetPhase_pg_self]; rfl
  case out => rw [State.read_pg, State.resetPhase_pg_self]; rfl
  case twice => rw [exec_pgrst, State.resetPhase_resetPhase]

/-- Settles O17: what the toggle writes, its frame, and that it is an involution. -/
theorem pgtogFlipsOutput : Obligations.PgtogFlipsOutput := by
  unfold Obligations.PgtogFlipsOutput
  intro x s
  refine ⟨s.toggle x, exec_pgtog x s, ?out, s.sameBut_toggle x, s.sameRest_setPg x _, ?twice⟩
  case out => rw [State.read_pg, State.toggle_pg_self]; exact toNat_not _
  case twice => rw [exec_pgtog, State.toggle_toggle]

/-- Settles O18: a query reads the output, and writes the answer bit alone. -/
theorem pgqryAnswersDeasserted : Obligations.PgqryAnswersDeasserted := by
  unfold Obligations.PgqryAnswersDeasserted
  intro x s
  refine ⟨s.query x, exec_pgqry x s, ?answer, fun r _ => s.read_query x r, rfl, rfl, rfl⟩
  case answer => rw [State.query_rsp]; exact toNat_not _

end Sys2Proof.Proofs

namespace Sys2Proof.Machine

/-! ## One assignment of the pseudocode and one update of the state (R9, R11) -/

@[simp] theorem State.read_withMs_pg (s : State) (m : Master) (x : Gen) (f : PgField) :
    State.read { s with ms := m } (.pg x f) = s.read (.pg x f) := by
  rw [State.read_pg, State.read_pg, State.pg_withMs]

theorem State.read_withMs_period (s : State) (v : Word) :
    State.read { s with ms := { s.ms with period := v } } = Store.assign s.read .msPeriod v.toNat := by
  funext r
  cases r with
  | pg x f => exact s.read_withMs_pg _ x f
  | _ => rfl

/-- `MS.pos` replaced (R85). -/
def State.withMsPos (s : State) (v : Word) : State := { s with ms := { s.ms with pos := v } }

theorem State.clockMaster_eq_withMsPos (s : State) :
    s.clockMaster .afterA =
      if s.ms.wraps then (s.withMsPos 0).subStep .afterA else s.withMsPos (advance s.ms.pos) := rfl

theorem State.read_withMsPos (s : State) (v : Word) : (s.withMsPos v).read = Store.assign s.read .msPos v.toNat := by
  funext r
  cases r with
  | pg x f => exact s.read_withMs_pg _ x f
  | _ => rfl

theorem State.read_withMs_resetB (s : State) (b : Bool) :
    State.read { s with ms := { s.ms with resetB := b } } = Store.assign s.read .msResetB b.toNat := by
  funext r
  cases r with
  | pg x f => exact s.read_withMs_pg _ x f
  | _ => rfl

theorem State.read_withMs_resetC (s : State) (b : Bool) :
    State.read { s with ms := { s.ms with resetC := b } } = Store.assign s.read .msResetC b.toNat := by
  funext r
  cases r with
  | pg x f => exact s.read_withMs_pg _ x f
  | _ => rfl

@[simp] theorem State.read_setPg_self (s : State) (x : Gen) (g : PulseGen) (f : PgField) :
    (s.setPg x g).read (.pg x f) = g.read f := by
  rw [State.read_pg, State.pg_setPg]

/-- Of two generators put in the place of `x` that differ in the register `f` alone, one leaves what an assignment to
`f` makes of what the other leaves. -/
theorem State.read_setPg_eq_assign (s : State) (x : Gen) {g k : PulseGen} {f : PgField} {v : Nat} (hf : k.read f = v)
    (h : ∀ f', f' ≠ f → k.read f' = g.read f') :
    (s.setPg x k).read = Store.assign (s.setPg x g).read (.pg x f) v := by
  funext r
  unfold Store.assign
  split
  case isTrue hr => rw [hr, State.read_setPg_self, hf]
  case isFalse hr =>
    cases r with
    | pg y f' =>
      rw [State.read_pg, State.read_pg, State.pg_setPg_cases, State.pg_setPg_cases]
      split
      case isTrue hy => exact h f' fun hff => hr (by rw [hy, hff])
      case isFalse => rfl
    | _ => simp [State.read]

theorem State.read_setPg_withPeriod (s : State) (x : Gen) (g : PulseGen) (v : Word) :
    (s.setPg x { g with period := v }).read = Store.assign (s.setPg x g).read (.pg x .period) v.toNat :=
  s.read_setPg_eq_assign x rfl fun f hf => by
    cases f with
    | period => exact absurd rfl hf
    | _ => rfl

theorem State.read_setPg_withDuty (s : State) (x : Gen) (g : PulseGen) (v : Word) :
    (s.setPg x { g with duty := v }).read = Store.assign (s.setPg x g).read (.pg x .duty) v.toNat :=
  s.read_setPg_eq_assign x rfl fun f hf => by
    cases f with
    | duty => exact absurd rfl hf
    | _ => rfl

theorem State.read_setPg_withPos (s : State) (x : Gen) (g : PulseGen) (v : Word) :
    (s.setPg x { g with pos := v }).read = Store.assign (s.setPg x g).read (.pg x .pos) v.toNat :=
  s.read_setPg_eq_assign x rfl fun f hf => by
    cases f with
    | pos => exact absurd rfl hf
    | _ => rfl

theorem State.read_setPg_withOut (s : State) (x : Gen) (g : PulseGen) (b : Bool) :
    (s.setPg x { g with out := b }).read = Store.assign (s.setPg x g).read (.pg x .out) b.toNat :=
  s.read_setPg_eq_assign x rfl fun f hf => by
    cases f with
    | out => exact absurd rfl hf
    | _ => rfl

/-- An assignment to one register leaves the others. -/
theorem State.sameBut_of_read_eq_assign {s t : State} {r : Reg} {v : Nat} (h : t.read = Store.assign s.read r v) :
    s.SameBut t [r] := by
  intro q hq
  rw [h]
  exact if_neg (List.ne_of_not_mem_cons hq)

/-! ## The operations of a generator against their pseudocode (R61, R64, R66, R68) -/

theorem State.read_setPeriod (s : State) (x : Gen) (u v : Word) :
    (s.setPeriod x u v).read = specSetPeriod x u v s.read := by
  have hmark : (s.setPeriod x u v).read = (s.setPg x ((s.pg x).setPeriod u v)).read :=
    funext fun r => State.read_noteDegenerate _ u r
  have hduty := s.read_setPg_withDuty x { s.pg x with period := pgPeriodOf u } (pgDutyOf u v)
  have hperiod := s.read_setPg_withPeriod x (s.pg x) (pgPeriodOf u)
  rw [State.setPg_pg, pgPeriodOf_toNat] at hperiod
  rw [hperiod, pgDutyOf_toNat] at hduty
  exact hmark.trans hduty

theorem State.read_resetPhase (s : State) (x : Gen) : (s.resetPhase x).read = specResetPhase x s.read := by
  have hout := s.read_setPg_withOut x { s.pg x with pos := (s.pg x).period } true
  have hpos := s.read_setPg_withPos x (s.pg x) (s.pg x).period
  rw [State.setPg_pg] at hpos
  rw [hpos] at hout
  exact hout

theorem State.read_toggle (s : State) (x : Gen) :
    (s.toggle x).read = Store.assign s.read (.pg x .out) (1 - s.read (.pg x .out)) := by
  have hout := s.read_setPg_withOut x (s.pg x) (!(s.pg x).out)
  rw [State.setPg_pg, toNat_not] at hout
  exact hout

/-- The generator after the advance and the duty check of `PGclock` (R66). -/
def PulseGen.advanced (g : PulseGen) : PulseGen :=
  { g with pos := advance g.pos, out := g.outAtDuty (advance g.pos) }

theorem State.read_setPg_advanced (s : State) (x : Gen) :
    (s.setPg x (s.pg x).advanced).read = specAdvance x s.read := by
  have hpos : (s.setPg x { s.pg x with pos := advance (s.pg x).pos }).read =
      Store.assign s.read (.pg x .pos) ((s.read (.pg x .pos) + 1) % 2 ^ 16) := by
    rw [State.read_setPg_withPos, State.setPg_pg, advance_toNat]; rfl
  have hcheck : (advance (s.pg x).pos).toNat = (s.pg x).duty.toNat ↔ advance (s.pg x).pos = (s.pg x).duty :=
    BitVec.toNat_inj
  simp only [specAdvance, ← hpos, State.read_setPg_self, PulseGen.read, hcheck]
  unfold PulseGen.advanced PulseGen.outAtDuty
  split
  · exact s.read_setPg_withOut x { s.pg x with pos := advance (s.pg x).pos } false
  · rfl

theorem specWrapped_read (s : State) (x : Gen) : specWrapped x s.read = (s.pg x).wraps := by
  rw [specWrapped, ← State.read_setPg_advanced, State.read_setPg_self, State.read_setPg_self]
  exact decide_eq_decide.2 BitVec.lt_def.symm

theorem State.read_clockPg (s : State) (x : Gen) : (s.clockPg x).read = specClock x s.read := by
  rw [State.clockPg, specClock, specWrapped_read, ← State.read_setPg_advanced]
  obtain ⟨hw, e⟩ | ⟨hw, e⟩ := (s.pg x).clock_cases
  · have hout := s.read_setPg_withOut x { (s.pg x).advanced with pos := 0 } true
    rw [State.read_setPg_withPos] at hout
    rw [hw, e]
    exact hout
  · rw [hw, e]; rfl

/-! ## The operations of the master against their pseudocode (R81, R85, R87) -/

theorem State.read_setMasterPeriod (s : State) (v : Word) :
    (s.setMasterPeriod Config.msPeriodBias v).read = Store.assign s.read .msPeriod v.toNat := by
  have hv : msPeriodOf Config.msPeriodBias v = v := BitVec.sub_zero v
  rw [State.setMasterPeriod, hv, State.read_withMs_period]

theorem State.read_applyResetB (s : State) :
    s.applyResetB.read =
      if s.read .msResetB = 1 then Store.assign (specResetPhase .B s.read) .msResetB 0 else s.read := by
  have hcleared := (s.resetPhase .B).read_withMs_resetB false
  rw [State.read_resetPhase] at hcleared
  have hflag : s.read .msResetB = 1 ↔ s.ms.resetB = true := Bool.toNat_eq_one
  rw [State.applyResetB]
  simp only [hflag]
  split
  · exact hcleared
  · rfl

theorem State.read_applyResetC (s : State) :
    s.applyResetC.read =
      if s.read .msResetC = 1 then Store.assign (specResetPhase .C s.read) .msResetC 0 else s.read := by
  have hcleared := (s.resetPhase .C).read_withMs_resetC false
  rw [State.read_resetPhase] at hcleared
  have hflag : s.read .msResetC = 1 ↔ s.ms.resetC = true := Bool.toNat_eq_one
  rw [State.applyResetC]
  simp only [hflag]
  split
  · exact hcleared
  · rfl

theorem State.read_applyPendingResets (s : State) : s.applyPendingResets.read = specApplyPending s.read := by
  rw [State.applyPendingResets, State.read_applyResetC, State.read_applyResetB]; rfl

theorem State.read_subStep (s : State) :
    (s.subStep .afterA).read =
      specClock .C (specClock .B
        (if specWrapped .A s.read then specApplyPending (specClock .A s.read) else specClock .A s.read)) := by
  rw [State.subStep, State.read_clockPg, State.read_clockPg, specWrapped_read, State.pg_A]
  split
  · rw [State.read_applyPendingResets, State.read_clockPg]
  · rw [State.read_clockPg]

theorem State.read_clockMaster (s : State) : (s.clockMaster .afterA).read = specTick s.read := by
  have hpos : (s.withMsPos (advance s.ms.pos)).read =
      Store.assign s.read .msPos ((s.read .msPos + 1) % 2 ^ 16) := by
    rw [State.read_withMsPos, advance_toNat]; rfl
  have hzero : (s.withMsPos 0).read = Store.assign (s.withMsPos (advance s.ms.pos)).read .msPos 0 :=
    (s.withMsPos (advance s.ms.pos)).read_withMsPos 0
  have hwraps : (s.withMsPos (advance s.ms.pos)).read .msPos > (s.withMsPos (advance s.ms.pos)).read .msPeriod ↔
      s.ms.wraps = true := (exceeds_iff _ _).symm
  rw [State.clockMaster_eq_withMsPos, specTick]
  simp only [← hpos, ← hzero, hwraps]
  split
  · exact (s.withMsPos 0).read_subStep
  · rfl

/-! ## Every instruction against its pseudocode -/

@[simp] theorem specEffect_pgset (x : Gen) (u v : Word) (m : Store) :
    specEffect (Instr.pgset x u v) m = specSetPeriod x u v m := by cases x <;> rfl

@[simp] theorem specEffect_pgrst (x : Gen) (m : Store) : specEffect (Instr.pgrst x) m = specResetPhase x m := by
  cases x <;> rfl

@[simp] theorem specEffect_pgtog (x : Gen) (m : Store) :
    specEffect (Instr.pgtog x) m = m.assign (.pg x .out) (1 - m (.pg x .out)) := by cases x <;> rfl

@[simp] theorem specEffect_pgqry (x : Gen) (m : Store) : specEffect (Instr.pgqry x) m = m := by cases x <;> rfl

@[simp] theorem specRsp_pgqry (x : Gen) (m : Store) (r : Nat) :
    specRsp (Instr.pgqry x) m r = 1 - m (.pg x .out) := by cases x <;> rfl

theorem specRsp_of_ne_pgqry {i : Instr} (h : ∀ x, i ≠ Instr.pgqry x) (m : Store) (r : Nat) : specRsp i m r = r := by
  cases i
  case pgqryA => exact absurd rfl (h .A)
  case pgqryB => exact absurd rfl (h .B)
  case pgqryC => exact absurd rfl (h .C)
  all_goals rfl

/-- What an instruction leaves in the registers of R11 is what its pseudocode computes from what they held. -/
theorem exec_read {i : Instr} {s t : State} (h : exec i s = .next t) : t.read = specEffect i s.read := by
  obtain ⟨v, rfl, rfl⟩ | ⟨x, u, v, rfl, rfl⟩ | ⟨rfl, rfl⟩ | ⟨rfl, rfl⟩ | ⟨x, rfl, rfl⟩ | ⟨x, rfl, rfl⟩ | ⟨x, rfl, rfl⟩ |
    ⟨rfl, rfl⟩ := exec_cases h
  · exact s.read_setMasterPeriod v
  · rw [specEffect_pgset, State.read_setPeriod]
  · exact s.read_withMs_resetB true
  · exact s.read_withMs_resetC true
  · rw [specEffect_pgrst, State.read_resetPhase]
  · rw [specEffect_pgtog, State.read_toggle]
  · rw [specEffect_pgqry]; exact funext (s.read_query x)
  · exact s.read_clockMaster

/-- What an instruction leaves on `rsp` is what the rules say (R43, R69). -/
theorem exec_rsp {i : Instr} {s t : State} (h : exec i s = .next t) :
    t.rsp.toNat = specRsp i s.read s.rsp.toNat := by
  obtain ⟨x, rfl, rfl⟩ | ⟨hi, hrsp⟩ := exec_rsp_cases h
  · rw [specRsp_pgqry, State.query_rsp]; exact toNat_not _
  · rw [specRsp_of_ne_pgqry hi, hrsp]

end Sys2Proof.Machine

namespace Sys2Proof.Proofs

open Sys2Proof.Machine

/-- Settles O24: each operation's updates of the state are its pseudocode's assignments, in the order written. -/
theorem everyOperationRefinesPseudocode : Obligations.EveryOperationRefinesPseudocode := by
  unfold Obligations.EveryOperationRefinesPseudocode
  intro i s
  obtain ⟨t, ht⟩ := exec_completes i s
  exact ⟨t, ht, congrFun (exec_read ht), exec_rsp ht, exec_resets ht, exec_inputs ht⟩

end Sys2Proof.Proofs

namespace Sys2Proof.Machine

/-! ## What a `TICK` does to a generator and to its request (R85, R87, R88) -/

/-- A request is applied exactly at A's cycle start. -/
theorem State.clockMaster_pending_eq (s : State) (x : Gen) :
    (s.clockMaster .afterA).ms.pending x = (s.ms.pending x && !s.cycleStartOfA) := by
  cases hc : s.cycleStartOfA with
  | false => rw [State.clockMaster_pending hc, Bool.not_false, Bool.and_true]
  | true =>
    rw [Bool.not_true, Bool.and_false]
    obtain ⟨hm, -⟩ | ⟨-, ha, -⟩ | ⟨-, -, e⟩ := s.clockMaster_cases
    · simp [State.cycleStartOfA, hm] at hc
    · simp [State.cycleStartOfA, ha] at hc
    · rw [e]; cases x <;> rfl

theorem afterPending_eq (s : State) (x : Gen) :
    afterPending s x = if s.ms.pending x then (s.pg x).resetPhase else s.pg x := by cases x <;> rfl

/-- A master wrap clocks every generator once, from its phase reset where a request of it is applied. -/
theorem State.clockMaster_pg_eq_clock {s : State} (h : s.ms.wraps = true) (x : Gen) :
    (s.clockMaster .afterA).pg x =
      (if s.cycleStartOfA = true ∧ s.ms.pending x = true then (s.pg x).resetPhase else s.pg x).clock := by
  obtain ⟨hw, -⟩ | ⟨-, ha, e⟩ | ⟨-, ha, e⟩ := s.clockMaster_cases
  · exact absurd h (by simp [hw])
  · have hc : s.cycleStartOfA = false := by simp [State.cycleStartOfA, ha]
    rw [e, if_neg (by simp [hc])]
    cases x <;> rfl
  · have hc : s.cycleStartOfA = true := by simp [State.cycleStartOfA, h, ha]
    simp only [hc, true_and, ← afterPending_eq]
    rw [e]
    cases x with
    | A => exact (PulseGen.clock_of_wraps ha).symm
    | B => rfl
    | C => rfl

theorem State.clockMaster_pg_of_no_phaseReset {s : State} (h : s.ms.wraps = true) {x : Gen}
    (hx : s.cycleStartOfA = false ∨ s.ms.pending x = false) : (s.clockMaster .afterA).pg x = (s.pg x).clock := by
  rw [State.clockMaster_pg_eq_clock h, if_neg (not_and_or.2 (hx.imp ne_true_of_eq_false ne_true_of_eq_false))]

/-- With no wrap the duty check alone decides the output (R66). -/
theorem PulseGen.clock_read_of_not_wraps {g : PulseGen} (h : g.wraps = false) :
    g.clock.read .pos = (g.read .pos + 1) % 2 ^ 16 ∧
      g.clock.read .out = if (g.read .pos + 1) % 2 ^ 16 = g.read .duty then 0 else g.read .out := by
  have hpos : (advance g.pos).toNat = (g.read .pos + 1) % 2 ^ 16 := advance_toNat g.pos
  have hcheck : (advance g.pos).toNat = g.read .duty ↔ advance g.pos = g.duty := BitVec.toNat_inj
  rw [PulseGen.clock_of_not_wraps h, ← hpos]
  refine ⟨rfl, ?_⟩
  simp only [hcheck]
  show (if advance g.pos = g.duty then false else g.out).toNat = _
  split <;> rfl

theorem PulseGen.clock_freshlyReset {g : PulseGen} (h : g.wraps = true) : g.clock.FreshlyReset := by
  rw [PulseGen.clock_of_wraps h]; exact ⟨rfl, rfl⟩

/-- At A's cycle start A and every generator with a request, of period below `MAXW`, end freshly reset (R88). -/
theorem State.clockMaster_freshlyReset {s : State} (h : s.cycleStartOfA = true) {x : Gen}
    (hx : s.ms.pending x = true) (hp : (s.pg x).period.toNat < MAXW) : ((s.clockMaster .afterA).pg x).FreshlyReset := by
  obtain ⟨hm, -⟩ := Bool.and_eq_true_iff.1 h
  rw [State.clockMaster_pg_eq_clock hm, if_pos ⟨h, hx⟩]
  exact PulseGen.clock_freshlyReset (PulseGen.resetPhase_wraps hp)

theorem State.clockMaster_pgA_freshlyReset {s : State} (h : s.cycleStartOfA = true) :
    (s.clockMaster .afterA).pgA.FreshlyReset := by
  obtain ⟨hm, ha⟩ := Bool.and_eq_true_iff.1 h
  have e : (s.clockMaster .afterA).pgA = s.pgA.clock := State.clockMaster_pg_of_no_phaseReset hm (x := .A) (.inr rfl)
  rw [e]
  exact PulseGen.clock_freshlyReset ha

/-- A `TICK` that is no master wrap is one assignment, to `MS.pos` (R92). -/
theorem State.clockMaster_of_not_wraps {s : State} (h : s.ms.wraps = false) :
    s.clockMaster .afterA = s.withMsPos (advance s.ms.pos) := by
  rw [State.clockMaster_eq_withMsPos, h]; rfl

theorem State.sameBut_withMsPos (s : State) (v : Word) : s.SameBut (s.withMsPos v) [.msPos] :=
  State.sameBut_of_read_eq_assign (s.read_withMsPos v)

theorem State.sameRest_withMs (s : State) (m : Master) : s.SameRest { s with ms := m } := ⟨rfl, rfl, rfl, rfl⟩

theorem Master.requestB_of_resetB {m : Master} (h : m.resetB = true) : m.requestB = m := by rw [Master.requestB, ← h]

theorem Master.requestC_of_resetC {m : Master} (h : m.resetC = true) : m.requestC = m := by rw [Master.requestC, ← h]

end Sys2Proof.Machine

namespace Sys2Proof.Proofs

open Sys2Proof.Machine

/-- Settles O22: the two outcomes of `PGclock`, as integers. -/
theorem masterWrapClocksGenerator : Obligations.MasterWrapClocksGenerator := by
  unfold Obligations.MasterWrapClocksGenerator
  intro s x hwrap hx
  have hm : s.ms.wraps = true := s.ms.wraps_iff.2 hwrap
  have hpg : (s.clockMaster .afterA).pg x = (s.pg x).clock := State.clockMaster_pg_of_no_phaseReset hm hx
  have hread (f : PgField) : (s.clockMaster .afterA).read (.pg x f) = (s.pg x).clock.read f :=
    congrArg (PulseGen.read · f) hpg
  refine ⟨s.clockMaster .afterA, exec_tick s, ?_⟩
  simp only [hread]
  refine ⟨?msPos, ?phase, ?period, ?duty⟩
  case msPos => rw [State.read, State.clockMaster_ms_pos, hm]; rfl
  case phase =>
    cases hw : (s.pg x).wraps with
    | true =>
      rw [PulseGen.clock_of_wraps hw]
      exact (if_pos ((s.pg x).wraps_iff.1 hw)).mpr ⟨rfl, rfl⟩
    | false =>
      have hle := mt (s.pg x).wraps_iff.2 (by simp [hw])
      exact (if_neg hle).mpr (PulseGen.clock_read_of_not_wraps hw)
  case period => exact congrArg BitVec.toNat (s.pg x).clock_period
  case duty => exact congrArg BitVec.toNat (s.pg x).clock_duty

/-- Settles O23: a `TICK` applies the requests exactly at A's cycle start. -/
theorem resyncAppliedAtCycleStartOfA : Obligations.ResyncAppliedAtCycleStartOfA := by
  unfold Obligations.ResyncAppliedAtCycleStartOfA
  refine ⟨fun s h => ?applied, fun s h => ?left⟩
  case applied =>
    have hflag (x : Gen) : (s.clockMaster .afterA).ms.pending x = false := by
      rw [State.clockMaster_pending_eq, h, Bool.not_true, Bool.and_false]
    exact ⟨s.clockMaster .afterA, exec_tick s, hflag .B, hflag .C, State.clockMaster_pgA_freshlyReset h,
      fun x hx hp => State.clockMaster_freshlyReset h hx hp⟩
  case left =>
    refine ⟨s.clockMaster .afterA, exec_tick s, State.clockMaster_pending h .B, State.clockMaster_pending h .C,
      fun x => ?_⟩
    cases hm : s.ms.wraps with
    | false => exact .inl (State.clockMaster_pg_of_not_wraps hm x)
    | true => exact .inr (State.clockMaster_pg_of_no_phaseReset hm (.inl h))

/-- Settles O12: the bias of D4 is 0, so that the effect is the one assignment. -/
theorem mssetStoresOperandUnchanged : Obligations.MssetStoresOperandUnchanged := by
  unfold Obligations.MssetStoresOperandUnchanged
  intro ticks s
  have hread := s.read_setMasterPeriod ticks
  refine ⟨decodeCommand_encode (i := .msset ticks) nofun, s.setMasterPeriod Config.msPeriodBias ticks, rfl, ?period,
    State.sameBut_of_read_eq_assign hread, s.sameRest_withMs _⟩
  case period => rw [hread]; exact if_pos rfl

/-- Settles O15: the effect is the one assignment, of the value the flag has when it is set already. -/
theorem resyncSetsOnlyItsFlag : Obligations.ResyncSetsOnlyItsFlag := by
  unfold Obligations.ResyncSetsOnlyItsFlag
  intro s
  have hB := State.sameBut_of_read_eq_assign (s.read_withMs_resetB true)
  have hC := State.sameBut_of_read_eq_assign (s.read_withMs_resetC true)
  refine ⟨⟨_, rfl, rfl, hB, s.sameRest_withMs _, fun h => ?againB⟩,
    ⟨_, rfl, rfl, hC, s.sameRest_withMs _, fun h => ?againC⟩⟩
  case againB => rw [Master.requestB_of_resetB h]
  case againC => rw [Master.requestC_of_resetC h]

/-- Settles O21: with no master wrap the effect is the one assignment to `MS.pos`. -/
theorem tickWithoutMasterWrap : Obligations.TickWithoutMasterWrap := by
  unfold Obligations.TickWithoutMasterWrap
  intro s h
  have hw : s.ms.wraps = false := Bool.eq_false_iff.2 fun hm => absurd (s.ms.wraps_iff.1 hm) (Nat.not_lt.2 h)
  refine ⟨s.withMsPos (advance s.ms.pos), by rw [exec_tick, State.clockMaster_of_not_wraps hw], advance_toNat s.ms.pos,
    s.sameBut_withMsPos _, s.sameRest_withMs _⟩

/-- Settles O27: both operations replace A alone, and assert a low output. -/
theorem hostAssertionOfAAppliesNothing : Obligations.HostAssertionOfAAppliesNothing := by
  unfold Obligations.HostAssertionOfAAppliesNothing
  rintro s i (rfl | rfl)
  · exact ⟨s.resetPhase .A, rfl, rfl, rfl, rfl, fun _ => rfl⟩
  · exact ⟨s.toggle .A, rfl, rfl, rfl, rfl, fun h => congrArg not h⟩

end Sys2Proof.Proofs

namespace Sys2Proof.Machine

/-! ## The machine after `n` ticks -/

/-- The state that `n` ticks leave (R85). -/
def State.afterTicks (s : State) : Nat → State
  | 0 => s
  | n + 1 => (s.afterTicks n).clockMaster .afterA

theorem runTicks_eq_afterTicks (s : State) (n : Nat) : runTicks n s = .next (s.afterTicks n) := by
  induction n with
  | zero => rfl
  | succ n ih => exact runTicks_succ_last n ih

@[simp] theorem State.afterTicks_ms_period (s : State) (n : Nat) : (s.afterTicks n).ms.period = s.ms.period := by
  induction n with
  | zero => rfl
  | succ n ih => rw [State.afterTicks, State.clockMaster_ms_period, ih]

@[simp] theorem State.afterTicks_pg_period (s : State) (n : Nat) (x : Gen) :
    ((s.afterTicks n).pg x).period = (s.pg x).period := by
  induction n with
  | zero => rfl
  | succ n ih => rw [State.afterTicks, (State.clockMaster_pair _ x).1, ih]

theorem State.afterTicks_not_pending {s : State} {x : Gen} (h : s.ms.pending x = false) (n : Nat) :
    (s.afterTicks n).ms.pending x = false := by
  induction n with
  | zero => exact h
  | succ n ih => rw [State.afterTicks, State.clockMaster_pending_eq, ih, Bool.false_and]

/-! ## Counters that run through their cycles (R18 (b), (d), R89) -/

theorem cyclePos_toNat_self {period pos : Word} (h : pos ≤ period) : cyclePos period pos.toNat = pos :=
  BitVec.eq_of_toNat_eq (by rw [cyclePos_toNat]; exact Nat.mod_eq_of_lt (Nat.lt_succ_of_le h))

/-- A counter that goes to 0 where it would exceed its wrap index runs through its cycle. -/
theorem cyclePos_succ {period : Word} (hp : period.toNat < MAXW) (k : Nat) :
    (if exceeds (advance (cyclePos period k)) period then 0 else advance (cyclePos period k)) =
      cyclePos period (k + 1) := by
  rw [exceeds_advance_cyclePos hp]
  by_cases h : (k + 1) % (period.toNat + 1) = 0
  · rw [if_pos (decide_eq_true h), cyclePos_succ_of_wrap h]
  · rw [if_neg (by simpa using h), advance_cyclePos hp h]

theorem PulseGen.clock_pos (g : PulseGen) : g.clock.pos = if g.wraps then 0 else advance g.pos := by
  obtain ⟨h, e⟩ | ⟨h, e⟩ := g.clock_cases <;> rw [e, h] <;> rfl

theorem PulseGen.clocked_pos_of_inCycle {g : PulseGen} (h : g.InCycle) (n : Nat) :
    (PulseGen.clocked n g).pos = cyclePos g.period (g.pos.toNat + n) := by
  obtain ⟨hpos, hmax⟩ := h
  induction n with
  | zero => exact (cyclePos_toNat_self hpos).symm
  | succ n ih =>
    rw [PulseGen.clocked_succ_last, PulseGen.clock_pos, PulseGen.wraps, PulseGen.clocked_period, ih]
    exact cyclePos_succ hmax _

theorem PulseGen.clocked_wraps_of_inCycle {g : PulseGen} (h : g.InCycle) (n : Nat) :
    (PulseGen.clocked n g).wraps = decide ((g.pos.toNat + n + 1) % (g.period.toNat + 1) = 0) := by
  rw [PulseGen.wraps, PulseGen.clocked_pos_of_inCycle h, PulseGen.clocked_period]
  exact exceeds_advance_cyclePos h.2 _

theorem State.afterTicks_ms_pos {s : State} (h : s.ms.InCycle) (n : Nat) :
    (s.afterTicks n).ms.pos = cyclePos s.ms.period (s.ms.pos.toNat + n) := by
  obtain ⟨hpos, hmax⟩ := h
  induction n with
  | zero => exact (cyclePos_toNat_self hpos).symm
  | succ n ih =>
    rw [State.afterTicks, State.clockMaster_ms_pos, Master.wraps, State.afterTicks_ms_period, ih]
    exact cyclePos_succ hmax _

theorem State.afterTicks_ms_wraps {s : State} (h : s.ms.InCycle) (n : Nat) :
    (s.afterTicks n).ms.wraps = decide ((s.ms.pos.toNat + n + 1) % (s.ms.period.toNat + 1) = 0) := by
  rw [Master.wraps, State.afterTicks_ms_pos h, State.afterTicks_ms_period]
  exact exceeds_advance_cyclePos h.2 _

/-- A generator without a request is clocked at the master wraps, and `(MS.pos + n) / (MS.period + 1)` of `n` ticks are
master wraps (R89). -/
theorem State.afterTicks_pg_eq_clocked {s : State} (h : s.ms.InCycle) {x : Gen} (hx : s.ms.pending x = false)
    (n : Nat) :
    (s.afterTicks n).pg x = PulseGen.clocked ((s.ms.pos.toNat + n) / (s.ms.period.toNat + 1)) (s.pg x) := by
  induction n with
  | zero =>
    have hlt : s.ms.pos.toNat < s.ms.period.toNat + 1 := Nat.lt_succ_of_le h.1
    rw [Nat.add_zero, Nat.div_eq_of_lt hlt]; rfl
  | succ n ih =>
    have hw := State.afterTicks_ms_wraps h n
    rw [State.afterTicks, ← Nat.add_assoc, Nat.succ_div]
    split
    case isTrue hz =>
      have hwraps := hw.trans (decide_eq_true (Nat.mod_eq_zero_of_dvd hz))
      have hnone := State.afterTicks_not_pending hx n
      rw [State.clockMaster_pg_of_no_phaseReset hwraps (.inr hnone), PulseGen.clocked_succ_last, ih]
    case isFalse hz =>
      have hcounts := hw.trans (decide_eq_false (mt Nat.dvd_of_mod_eq_zero hz))
      rw [State.clockMaster_pg_of_not_wraps hcounts, Nat.add_zero, ih]

/-! ## The first master wrap (R90) -/

/-- Up to the first master wrap `MS.pos` is incremented modulo `2^16`, whatever the state. -/
theorem State.afterTicks_ms_pos_of_no_wrap {s : State} {n : Nat}
    (h : ∀ j, j < n → (s.ms.pos.toNat + j + 1) % 65536 ≤ s.ms.period.toNat) :
    (s.afterTicks n).ms.pos.toNat = (s.ms.pos.toNat + n) % 65536 := by
  induction n with
  | zero => exact (Nat.mod_eq_of_lt s.ms.pos.isLt).symm
  | succ n ih =>
    have hn := ih fun j hj => h j (Nat.lt_succ_of_lt hj)
    have hnext := h n (Nat.lt_succ_self n)
    have hw : ¬ (s.afterTicks n).ms.wraps = true := by
      rw [Master.wraps_iff, State.afterTicks_ms_period, hn]; omega
    rw [State.afterTicks, State.clockMaster_ms_pos, if_neg hw, advance_toNat, hn]
    omega

theorem State.afterTicks_ms_wraps_of_no_wrap {s : State} {n : Nat}
    (h : ∀ j, j < n → (s.ms.pos.toNat + j + 1) % 65536 ≤ s.ms.period.toNat) :
    (s.afterTicks n).ms.wraps = decide (s.ms.period.toNat < (s.ms.pos.toNat + n + 1) % 65536) := by
  rw [Bool.eq_iff_iff, decide_eq_true_iff, Master.wraps_iff, State.afterTicks_ms_period,
    State.afterTicks_ms_pos_of_no_wrap h, Nat.mod_add_mod]

/-- The number of ticks before the first master wrap: the rest of the cycle, the whole of it after the overflow of
`MS.pos` at `MAXW`, and none from any other `MS.pos` beyond the period (R90). -/
def Master.ticksToWrap (m : Master) : Nat :=
  if m.pos.toNat = MAXW then m.period.toNat + 1 else m.period.toNat - m.pos.toNat

theorem Master.ticksToWrap_le (m : Master) : m.ticksToWrap ≤ m.period.toNat + 1 := by
  unfold Master.ticksToWrap; split <;> omega

/-- Before `ticksToWrap` ticks the incremented `MS.pos` is within the period, and then exceeds it. -/
theorem Master.ticksToWrap_spec (m : Master) (h : m.period.toNat < MAXW) :
    (∀ j, j < m.ticksToWrap → (m.pos.toNat + j + 1) % 65536 ≤ m.period.toNat) ∧
      m.period.toNat < (m.pos.toNat + m.ticksToWrap + 1) % 65536 := by
  have hpos := m.pos.isLt
  unfold Master.ticksToWrap MAXW at *
  split <;> exact ⟨fun j hj => by omega, by omega⟩

/-! ## A's next cycle start (R91) -/

/-- A count in units of `m` and a count in units of `m * l` beside it return to 0 together where their sum does. -/
theorem mul_add_mod_mul_eq_zero_iff {m : Nat} (hm : 0 < m) (l c k : Nat) :
    (c * m + k) % (m * l) = 0 ↔ k % m = 0 ∧ (c + k / m) % l = 0 := by
  rw [Nat.mod_mul, Nat.mul_comm c m, Nat.mul_add_mod, Nat.mul_add_div hm, Nat.add_eq_zero_iff, Nat.mul_eq_zero,
    or_iff_right hm.ne']

/-- The master's counter and A's, in their cycles, count together through `(MS.period + 1) * (PG[A].period + 1)` ticks,
and A's cycle start is where that count returns to 0. -/
theorem State.afterTicks_cycleStartOfA {s : State} (hm : s.ms.InCycle) (ha : s.pgA.InCycle) (n : Nat) :
    (s.afterTicks n).cycleStartOfA =
      decide ((s.pgA.pos.toNat * (s.ms.period.toNat + 1) + (s.ms.pos.toNat + n + 1)) %
        ((s.ms.period.toNat + 1) * (s.pgA.period.toNat + 1)) = 0) := by
  have hA : (s.afterTicks n).pgA = PulseGen.clocked ((s.ms.pos.toNat + n) / (s.ms.period.toNat + 1)) s.pgA :=
    State.afterTicks_pg_eq_clocked hm (x := .A) rfl n
  rw [State.cycleStartOfA, hA, State.afterTicks_ms_wraps hm, PulseGen.clocked_wraps_of_inCycle ha, ← Bool.decide_and,
    decide_eq_decide, mul_add_mod_mul_eq_zero_iff (Nat.succ_pos _)]
  refine and_congr_right fun hz => ?_
  rw [Nat.succ_div_of_dvd (Nat.dvd_of_mod_eq_zero hz), Nat.add_assoc]

/-- The number of ticks before A's next cycle start (R91). -/
def State.ticksToCycleStartOfA (s : State) : Nat :=
  (s.ms.period.toNat + 1) * (s.pgA.period.toNat + 1) - 1 -
    (s.pgA.pos.toNat * (s.ms.period.toNat + 1) + s.ms.pos.toNat)

/-- The common count of the master and of A stays within their common cycle. -/
theorem State.count_add_ticksToCycleStartOfA {s : State} (hm : s.ms.InCycle) (ha : s.pgA.InCycle) :
    s.pgA.pos.toNat * (s.ms.period.toNat + 1) + s.ms.pos.toNat + s.ticksToCycleStartOfA + 1 =
      (s.ms.period.toNat + 1) * (s.pgA.period.toNat + 1) := by
  have hpos : s.ms.pos.toNat ≤ s.ms.period.toNat := hm.1
  have hcount : (s.pgA.pos.toNat + 1) * (s.ms.period.toNat + 1) ≤ (s.pgA.period.toNat + 1) * (s.ms.period.toNat + 1) :=
    Nat.mul_le_mul_right _ (Nat.succ_le_succ ha.1)
  rw [Nat.succ_mul, Nat.mul_comm (_ + 1)] at hcount
  unfold State.ticksToCycleStartOfA
  omega

theorem State.cycleStartOfA_afterTicks_ticksToCycleStartOfA {s : State} (hm : s.ms.InCycle) (ha : s.pgA.InCycle) :
    (s.afterTicks s.ticksToCycleStartOfA).cycleStartOfA = true := by
  have hcount := State.count_add_ticksToCycleStartOfA hm ha
  rw [State.afterTicks_cycleStartOfA hm ha, ← Nat.add_assoc, ← Nat.add_assoc, hcount]
  exact decide_eq_true (Nat.mod_self _)

theorem State.not_cycleStartOfA_before {s : State} (hm : s.ms.InCycle) (ha : s.pgA.InCycle) {n : Nat}
    (hn : n < s.ticksToCycleStartOfA) : (s.afterTicks n).cycleStartOfA = false := by
  have hcount := State.count_add_ticksToCycleStartOfA hm ha
  rw [State.afterTicks_cycleStartOfA hm ha, Nat.mod_eq_of_lt (by omega)]
  exact decide_eq_false (by omega)

/-- A request stays pending up to A's next cycle start (R36, R91). -/
theorem State.afterTicks_pending {s : State} (hm : s.ms.InCycle) (ha : s.pgA.InCycle) {x : Gen}
    (hx : s.ms.pending x = true) {n : Nat} (hn : n ≤ s.ticksToCycleStartOfA) :
    (s.afterTicks n).ms.pending x = true := by
  induction n with
  | zero => exact hx
  | succ n ih =>
    rw [State.afterTicks, State.clockMaster_pending (State.not_cycleStartOfA_before hm ha hn)]
    exact ih (Nat.le_of_succ_le hn)

end Sys2Proof.Machine

namespace Sys2Proof.Proofs

open Sys2Proof.Machine

/-- Settles O38: the master's counter in closed form, what a tick does before and at a wrap, and the clocks counted. -/
theorem masterGating : Obligations.MasterGating := by
  unfold Obligations.MasterGating
  intro s n hmax hpos
  have hm : s.ms.InCycle := ⟨hpos, hmax⟩
  refine ⟨s.afterTicks n, (s.afterTicks n).clockMaster .afterA, runTicks_eq_afterTicks s n, ?msPos,
    State.afterTicks_ms_wraps hm n, exec_tick _, fun hw => ?noWrap,
    fun hw => ⟨?wrapPos, State.clockMaster_pg_eq_clock hw⟩,
    State.afterTicks_pg_eq_clocked hm (x := .A) rfl n, fun hB => State.afterTicks_pg_eq_clocked hm (x := .B) hB n,
    fun hC => State.afterTicks_pg_eq_clocked hm (x := .C) hC n⟩
  case msPos => exact (congrArg BitVec.toNat (State.afterTicks_ms_pos hm n)).trans (cyclePos_toNat s.ms.period _)
  case noWrap =>
    rw [State.clockMaster_of_not_wraps hw]
    exact ⟨State.sameBut_withMsPos _ _, State.sameRest_withMs _ _⟩
  case wrapPos => rw [State.read, State.clockMaster_ms_pos, hw]; rfl

/-- Settles O39: the first master wrap is after `ticksToWrap` ticks, and with `MS.period = MAXW` there is none. -/
theorem firstMasterWrapIsBounded : Obligations.FirstMasterWrapIsBounded := by
  unfold Obligations.FirstMasterWrapIsBounded
  refine ⟨fun s hmax => ?bounded, fun s n hmax => ?never⟩
  case bounded =>
    obtain ⟨hbefore, hwrap⟩ := s.ms.ticksToWrap_spec hmax
    refine ⟨s.ms.ticksToWrap, s.ms.ticksToWrap_le, fun h => if_pos h, fun hle hlt => ?beyond,
      ⟨_, runTicks_eq_afterTicks s _, ?atWrap⟩, fun m hmn => ⟨_, runTicks_eq_afterTicks s m, ?earlier⟩⟩
    case beyond => exact (if_neg hlt.ne).trans (Nat.sub_eq_zero_of_le hle)
    case atWrap => rw [State.afterTicks_ms_wraps_of_no_wrap hbefore]; exact decide_eq_true hwrap
    case earlier =>
      rw [State.afterTicks_ms_wraps_of_no_wrap fun j hj => hbefore j (hj.trans hmn)]
      exact decide_eq_false (Nat.not_lt.2 (hbefore m hmn))
  case never =>
    have hwithin (j : Nat) : (s.ms.pos.toNat + j + 1) % 65536 ≤ s.ms.period.toNat := by
      have hperiod : s.ms.period.toNat = 65535 := hmax
      omega
    refine ⟨_, runTicks_eq_afterTicks s n, ?noWrap, State.afterTicks_ms_pos_of_no_wrap fun j _ => hwithin j⟩
    case noWrap =>
      rw [State.afterTicks_ms_wraps_of_no_wrap fun j _ => hwithin j]
      exact decide_eq_false (Nat.not_lt.2 (hwithin n))

/-- Settles O41: the request waits for A's next cycle start, which the common cycle of the master and A bounds. -/
theorem resyncLatencyBound : Obligations.ResyncLatencyBound := by
  unfold Obligations.ResyncLatencyBound
  intro s x hm ha hx hperiod
  have hstart := State.cycleStartOfA_afterTicks_ticksToCycleStartOfA hm ha
  refine ⟨s.ticksToCycleStartOfA, ?bound,
    fun m hmn => ⟨_, runTicks_eq_afterTicks s m, State.afterTicks_pending hm ha hx hmn⟩,
    ⟨_, runTicks_eq_afterTicks s _, hstart⟩, _, runTicks_eq_afterTicks s _, ?cleared, ?fresh,
    State.clockMaster_pgA_freshlyReset hstart⟩
  case bound =>
    have hcount := State.count_add_ticksToCycleStartOfA hm ha
    rw [Nat.mul_comm]; omega
  case cleared => rw [State.afterTicks, State.clockMaster_pending_eq, hstart, Bool.not_true, Bool.and_false]
  case fresh =>
    refine State.clockMaster_freshlyReset hstart (State.afterTicks_pending hm ha hx le_rfl) ?_
    rw [State.afterTicks_pg_period]
    exact hperiod

end Sys2Proof.Proofs

namespace Sys2Proof.Machine

/-! ## What a control cycle answers (R103, R105) -/

section
variable {p : RateParams} {h : HostMemory} {b c f tb tc : Nat}

/-- With both indices in their tables, the two divisors are looked at first and the operands' widths last (R105, U5). -/
theorem ctrlCycle_of_entries (hb : p.bMultipliers[b]? = some tb) (hc : p.cMultipliers[c]? = some tc) :
    ctrlCycle p h b c f =
      if f = 0 then .error .zeroFrequency
      else if p.masterTickPeriod f = 0 then .error .zeroMasterPeriod
      else if p.masterTickPeriod f ≤ MAXW ∧ p.dutyCap f ≤ MAXW ∧ tb ≤ MAXW ∧ tc ≤ MAXW then
        .ok (⟨b, c⟩, resyncRequests h b c ++
          pushes (operandOf (p.masterTickPeriod f)) (operandOf (p.dutyCap f)) (operandOf tb) (operandOf tc))
      else .error .operandTooWide := by
  rw [ctrlCycle, hb, hc]

theorem ctrlCycle_of_index_out (hout : 11 ≤ b ∨ 11 ≤ c) : ctrlCycle p h b c f = .error .indexOutOfRange := by
  rcases hout with hb | hc
  · rw [ctrlCycle, Vector.getElem?_eq_none hb]
  · rw [ctrlCycle, Vector.getElem?_eq_none hc]
    cases p.bMultipliers[b]? <;> rfl

/-- What admissible parameters guarantee of a control cycle's divisors and operands (R8, R105). -/
theorem RateParams.wf_fits (hwf : p.wf = true) (hf : p.inRange f = true) (hb : p.bMultipliers[b]? = some tb)
    (hc : p.cMultipliers[c]? = some tc) :
    (0 < f ∧ 1 ≤ p.masterTickPeriod f ∧ p.masterTickPeriod f ≤ MAXW ∧ p.dutyCap f ≤ MAXW) ∧
      (1 ≤ tb ∧ tb ≤ MAXW) ∧ 1 ≤ tc ∧ tc ≤ MAXW := by
  simp only [RateParams.wf, Bool.and_eq_true] at hwf
  obtain ⟨⟨⟨hB, hC⟩, -⟩, hrange⟩ := hwf
  exact ⟨RateParams.range_fits hrange hf, tableWf_entry hB hb, tableWf_entry hC hc⟩

/-- Admissible parameters, a frequency of the range and indices of the tables are never refused (R8, R101, R103). -/
theorem ctrlCycle_of_wf (hwf : p.wf = true) (hf : p.inRange f = true) (hb : p.bMultipliers[b]? = some tb)
    (hc : p.cMultipliers[c]? = some tc) :
    ctrlCycle p h b c f = .ok (⟨b, c⟩, resyncRequests h b c ++
      pushes (operandOf (p.masterTickPeriod f)) (operandOf (p.dutyCap f)) (operandOf tb) (operandOf tc)) := by
  obtain ⟨⟨hf0, hperiod1, hperiod, hcap⟩, ⟨-, hbmax⟩, -, hcmax⟩ := RateParams.wf_fits hwf hf hb hc
  rw [ctrlCycle_of_entries hb hc, if_neg hf0.ne', if_neg (Nat.pos_iff_ne_zero.1 hperiod1),
    if_pos ⟨hperiod, hcap, hbmax, hcmax⟩]

end

end Sys2Proof.Machine

namespace Sys2Proof.Proofs

open Sys2Proof.Machine

/-- Settles O50: nothing is refused, and each operand that fits is the host's number itself. -/
theorem controlCycleExpansion : Obligations.ControlCycleExpansion := by
  unfold Obligations.ControlCycleExpansion
  intro p h b c f hb hc hwf hf
  have hbEntry := Vector.getElem?_eq_getElem (xs := p.bMultipliers) hb
  have hcEntry := Vector.getElem?_eq_getElem (xs := p.cMultipliers) hc
  obtain ⟨⟨-, hperiod1, hperiod, hcap⟩, ⟨hb1, hbmax⟩, hc1, hcmax⟩ := RateParams.wf_fits hwf hf hbEntry hcEntry
  exact ⟨operandOf (p.masterTickPeriod f), operandOf (p.dutyCap f), operandOf p.bMultipliers[b],
    operandOf p.cMultipliers[c], operandOf_toNat hperiod, operandOf_toNat hcap, operandOf_toNat hbmax,
    operandOf_toNat hcmax, hperiod1.trans_eq (operandOf_toNat hperiod).symm,
    ctrlCycle_of_wf hwf hf hbEntry hcEntry, rfl, rfl, bne_iff_ne.2 (operandOf_ne_zero hb1 hbmax),
    bne_iff_ne.2 (operandOf_ne_zero hc1 hcmax)⟩

/-- Settles O49: the index is looked at before the frequency, and the frequency before its quotient. -/
theorem controlCycleRefusesDivisionByZero : Obligations.ControlCycleRefusesDivisionByZero := by
  unfold Obligations.ControlCycleRefusesDivisionByZero
  intro p h b c f
  refine ⟨fun hb hc hf => ?zeroFrequency, fun hb hc hf hlt => ?zeroMasterPeriod, ctrlCycle_of_index_out⟩
  case zeroFrequency =>
    rw [ctrlCycle_of_entries (Vector.getElem?_eq_getElem hb) (Vector.getElem?_eq_getElem hc), if_pos hf]
  case zeroMasterPeriod =>
    have hquotient : p.masterTickPeriod f = 0 := Nat.div_eq_of_lt hlt
    rw [ctrlCycle_of_entries (Vector.getElem?_eq_getElem hb) (Vector.getElem?_eq_getElem hc), if_neg hf.ne',
      if_pos hquotient]

end Sys2Proof.Proofs

namespace Sys2Proof

/-! ## Legal words and the decoders (R46, R47, R49) -/

/-- The words the opcode table lists are the words that decode. -/
theorem traceWordWf_iff {w : CmdWord} : traceWordWf w = true ↔ ∃ i, decode w = some i := by
  rw [← Option.ne_none_iff_exists', ne_eq, decode_eq_none_iff_no_row, traceWordWf, List.any_eq_true]
  simp only [not_forall, Bool.not_eq_false, exists_prop]

/-- The legal command words are the words the command port decodes. -/
theorem commandWordWf_iff {w : CmdWord} : commandWordWf w = true ↔ ∃ i, decodeCommand w = some i := by
  rw [commandWordWf, Bool.and_eq_true, bne_iff_ne, traceWordWf_iff]
  constructor
  · rintro ⟨⟨i, hi⟩, hw⟩
    exact ⟨i, decodeCommand_of_decode hw hi⟩
  · rintro ⟨i, hi⟩
    have htick : decodeCommand 0x7000000000 = none := by decide
    refine ⟨⟨i, decode_of_decodeCommand hi⟩, ?_⟩
    rintro rfl
    cases htick.symm.trans hi

/-- The host's contract is broken by `PGSET.x 0, c` and by no other instruction (R62, R105 (c)). -/
theorem Instr.meetsContract_eq_false_iff {i : Instr} : i.meetsContract = false ↔ ∃ x c, i = Instr.pgset x 0 c := by
  constructor
  · intro h
    cases i
    case pgsetA u c => exact ⟨.A, c, by rw [bne_eq_false_iff_eq.1 h]; rfl⟩
    case pgsetB u c => exact ⟨.B, c, by rw [bne_eq_false_iff_eq.1 h]; rfl⟩
    case pgsetC u c => exact ⟨.C, c, by rw [bne_eq_false_iff_eq.1 h]; rfl⟩
    all_goals cases h
  · rintro ⟨x, c, rfl⟩
    cases x <;> rfl

end Sys2Proof

namespace Sys2Proof.Machine

/-! ## The violation mark (U1, R121) -/

theorem Parameters.push_violation (p : Parameters) (i : Instr) :
    (p.push i).violation = (p.violation || !i.meetsContract) := by
  cases i
  case pgsetA u c => exact congrArg (p.violation || ·) (Bool.not_not _).symm
  case pgsetB u c => exact congrArg (p.violation || ·) (Bool.not_not _).symm
  case pgsetC u c => exact congrArg (p.violation || ·) (Bool.not_not _).symm
  all_goals exact (Bool.or_false _).symm

/-- An instruction leaves the mark, or sets it because it breaks the host's contract. -/
theorem exec_violation {i : Instr} {s t : State} (h : exec i s = .next t) :
    t.violation = (s.violation || !i.meetsContract) :=
  (congrArg Parameters.violation (exec_parameters h)).trans (s.parameters.push_violation i)

/-- The event that performs a `PGSET.x` is its word on the command port, and no other. -/
theorem Event.instr?_eq_some_pgset_iff {e : Event} {x : Gen} {u v : Word} :
    e.instr? = some (Instr.pgset x u v) ↔ e = .cmd (encode (Instr.pgset x u v)) := by
  have hne : Instr.pgset x u v ≠ .tick := by cases x <;> nofun
  constructor
  · intro h
    cases e with
    | reset => cases h
    | tick => exact absurd (Option.some.inj h).symm hne
    | cmd w => rw [encode_of_decode (decode_of_decodeCommand h)]
  · rintro rfl
    exact decodeCommand_encode hne

end Sys2Proof.Machine

namespace Sys2Proof.Proofs

open Sys2Proof.Machine

/-- Settles O8: a legal word has an instruction, every instruction completes, and there is no reason to fault. -/
theorem everyEventCompletes : Obligations.EveryEventCompletes := by
  unfold Obligations.EveryEventCompletes
  refine ⟨fun s w rest hs hw => ?command, fun s rest hs => ?tickOrReset, fun s r => ?noFault, exec_completes⟩
  case command =>
    obtain ⟨i, hi⟩ := commandWordWf_iff.1 hw
    rw [step_of_event hs, applyEvent_cmd hi]
    exact exec_completes i _
  case tickOrReset =>
    obtain hs | hs := hs <;> rw [step_of_event hs]
    · exact exec_completes .tick _
    · exact ⟨_, rfl⟩
  case noFault => cases r

/-- Settles O29: a step without an event and a `RESET` keep the mark, and an instruction sets it by breaking the contract. -/
theorem violationMarkIsStickyAndExact : Obligations.ViolationMarkIsStickyAndExact := by
  unfold Obligations.ViolationMarkIsStickyAndExact
  intro s t h
  obtain ⟨hs, rfl⟩ | ⟨rest, hs, rfl⟩ | ⟨e, rest, i, hs, hi, he⟩ := step_cases_of_instr h
  · simp [hs]
  · simp [hs]
  · have hword : (∃ x c, i = Instr.pgset x 0 c) ↔
        ∃ x c rest', s.inputs = .cmd (encode (Instr.pgset x 0 c)) :: rest' := by
      simp [hs, ← Event.instr?_eq_some_pgset_iff, hi]
    rw [exec_violation he, Bool.or_eq_true, Bool.not_eq_true', Instr.meetsContract_eq_false_iff, hword]

end Sys2Proof.Proofs

namespace Sys2Proof.Machine

/-! ## Ticks up to the first master wrap (R90, R155) -/

/-- No `MS.pos` exceeds `MS.period = MAXW`. -/
theorem Master.wraps_of_period_max {m : Master} (h : m.period.toNat = MAXW) : m.wraps = false := by
  rw [← Bool.not_eq_true, Master.wraps_iff, h, MAXW]
  omega

@[simp] theorem State.withMsPos_pg (s : State) (v : Word) (x : Gen) : (s.withMsPos v).pg x = s.pg x := s.pg_withMs _ x

/-- Ticks of which none is a master wrap move `MS.pos` and nothing else (R92). -/
theorem State.afterTicks_eq_withMsPos {s : State} {n : Nat} (h : ∀ j, j < n → (s.afterTicks j).ms.wraps = false) :
    s.afterTicks n = s.withMsPos (s.afterTicks n).ms.pos := by
  induction n with
  | zero => rfl
  | succ n ih =>
    have hn := ih fun j hj => h j (Nat.lt_succ_of_lt hj)
    rw [State.afterTicks, State.clockMaster_of_not_wraps (h n n.lt_succ_self), hn]
    rfl

/-- Up to tick `ticksToWrap + 1` that one alone is a master wrap (R90). -/
theorem State.afterTicks_ms_wraps_of_le {s : State} (h : s.ms.period.toNat < MAXW) {m : Nat}
    (hm : m ≤ s.ms.ticksToWrap) : (s.afterTicks m).ms.wraps = decide (m = s.ms.ticksToWrap) := by
  obtain ⟨hbefore, hwrap⟩ := s.ms.ticksToWrap_spec h
  rw [State.afterTicks_ms_wraps_of_no_wrap fun j hj => hbefore j (hj.trans_le hm), decide_eq_decide]
  obtain rfl | hlt := hm.eq_or_lt
  · exact iff_of_true hwrap rfl
  · exact iff_of_false (Nat.not_lt.2 (hbefore m hlt)) hlt.ne

theorem State.afterTicks_pg_of_le {s : State} (h : s.ms.period.toNat < MAXW) {m : Nat} (hm : m ≤ s.ms.ticksToWrap)
    (x : Gen) : (s.afterTicks m).pg x = s.pg x := by
  have hnone (j : Nat) (hj : j < m) : (s.afterTicks j).ms.wraps = false := by
    rw [State.afterTicks_ms_wraps_of_le h (hj.le.trans hm)]
    exact decide_eq_false (hj.trans_le hm).ne
  rw [State.afterTicks_eq_withMsPos hnone, State.withMsPos_pg]

/-! ## The boot sequence (R53, R146, R147) -/

theorem runEvents_eventsOf_cons {i : Instr} {s t : State} (h : exec i s = .next t) (is : List Instr) :
    runEvents (eventsOf (i :: is)) s = runEvents (eventsOf is) t :=
  runEvents_cons_of_next ((applyEvent_eventOf i s).trans h) (eventsOf is)

/-- The state that `BOOT tm, ta, tb, tc, cap` leaves. -/
def State.booted (s : State) (tm ta tb tc cap : Word) : State :=
  let pushed :=
    (((s.setMasterPeriod Config.msPeriodBias tm).setPeriod .A ta cap).setPeriod .B tb cap).setPeriod .C tc cap
  ((pushed.resetPhase .A).resetPhase .B).resetPhase .C

theorem runEvents_bootCommands (s : State) (tm ta tb tc cap : Word) :
    runEvents (eventsOf (bootCommands tm ta tb tc cap)) s = .next (s.booted tm ta tb tc cap) := by
  have hcommands : bootCommands tm ta tb tc cap =
      [.msset tm, Instr.pgset .A ta cap, Instr.pgset .B tb cap, Instr.pgset .C tc cap,
        Instr.pgrst .A, Instr.pgrst .B, Instr.pgrst .C] := rfl
  have hmsset : exec (.msset tm) s = .next (s.setMasterPeriod Config.msPeriodBias tm) := rfl
  rw [hcommands, runEvents_eventsOf_cons hmsset, runEvents_eventsOf_cons (exec_pgset .A ta cap _),
    runEvents_eventsOf_cons (exec_pgset .B tb cap _), runEvents_eventsOf_cons (exec_pgset .C tc cap _),
    runEvents_eventsOf_cons (exec_pgrst .A _), runEvents_eventsOf_cons (exec_pgrst .B _),
    runEvents_eventsOf_cons (exec_pgrst .C _)]
  rfl

theorem State.booted_ms_period (s : State) (tm ta tb tc cap : Word) : (s.booted tm ta tb tc cap).ms.period = tm := by
  simp [State.booted, msPeriodOf, Config.msPeriodBias]

theorem State.booted_violation (s : State) {tm ta tb tc cap : Word} (ha : ta ≠ 0) (hb : tb ≠ 0) (hc : tc ≠ 0) :
    (s.booted tm ta tb tc cap).violation = s.violation := by
  have hmarks : (s.booted tm ta tb tc cap).violation = (((s.violation || ta == 0) || tb == 0) || tc == 0) := rfl
  rw [hmarks, beq_false_of_ne ha, beq_false_of_ne hb, beq_false_of_ne hc, Bool.or_false, Bool.or_false, Bool.or_false]

theorem State.booted_pg (s : State) (tm ta tb tc cap : Word) (x : Gen) :
    (s.booted tm ta tb tc cap).pg x = ((s.pg x).setPeriod (perGen ta tb tc x) cap).resetPhase := by
  cases x <;> rfl

theorem pgPeriodOf_toNat_succ {t : Word} (h : t ≠ 0) : (pgPeriodOf t).toNat + 1 = t.toNat := by
  have hpos : t.toNat ≠ 0 := fun h0 => h (BitVec.eq_of_toNat_eq h0)
  have hlt := t.isLt
  rw [pgPeriodOf_toNat]; omega

theorem pgPeriodOf_toNat_lt {t : Word} (h : t ≠ 0) : (pgPeriodOf t).toNat < MAXW := by
  have hsucc := pgPeriodOf_toNat_succ h
  have hlt := t.isLt
  unfold MAXW; omega

theorem perGen_ne_zero {a b c : Word} (ha : a ≠ 0) (hb : b ≠ 0) (hc : c ≠ 0) (x : Gen) : perGen a b c x ≠ 0 := by
  cases x with
  | A => exact ha
  | B => exact hb
  | C => exact hc

/-- Every generator stands as its phase reset leaves it, with a period below `MAXW` (R64). -/
def State.PhaseReset (s : State) : Prop := ∀ x, (s.pg x).resetPhase = s.pg x ∧ (s.pg x).period.toNat < MAXW

/-- The first master wrap finds the generators as they were, so that each of them has its cycle start, A among them, and no
request is left (R88, R147). -/
theorem State.PhaseReset.firstMasterWrap {s : State} (h : s.PhaseReset) (hmax : s.ms.period.toNat < MAXW) :
    (s.afterTicks (s.ms.ticksToWrap + 1)).ms.pos = 0 ∧
      (∀ x, (s.afterTicks (s.ms.ticksToWrap + 1)).ms.pending x = false) ∧
      ∀ x, ((s.afterTicks (s.ms.ticksToWrap + 1)).pg x).FreshlyReset ∧
        ((s.afterTicks (s.ms.ticksToWrap + 1)).pg x).period = (s.pg x).period ∧
        ((s.afterTicks (s.ms.ticksToWrap + 1)).pg x).duty = (s.pg x).duty := by
  have hsame (x : Gen) : (s.afterTicks s.ms.ticksToWrap).pg x = s.pg x := State.afterTicks_pg_of_le hmax le_rfl x
  have hwraps (x : Gen) : (s.pg x).wraps = true := by
    rw [← (h x).1]
    exact PulseGen.resetPhase_wraps (h x).2
  have hw : (s.afterTicks s.ms.ticksToWrap).ms.wraps = true :=
    (State.afterTicks_ms_wraps_of_le hmax le_rfl).trans (decide_eq_true rfl)
  have hA : (s.afterTicks s.ms.ticksToWrap).cycleStartOfA = true := by
    rw [State.cycleStartOfA, hw, Bool.true_and, ← State.pg_A, hsame, hwraps]
  rw [State.afterTicks]
  refine ⟨?pos, fun x => ?pending, fun x => ?fresh⟩
  case pos => rw [State.clockMaster_ms_pos, if_pos hw]
  case pending => rw [State.clockMaster_pending_eq, hA, Bool.not_true, Bool.and_false]
  case fresh =>
    rw [State.clockMaster_pg_eq_clock hw, hsame, (h x).1, ite_self]
    exact ⟨PulseGen.clock_freshlyReset (hwraps x), PulseGen.clock_period _, PulseGen.clock_duty _⟩

theorem State.booted_phaseReset (s : State) {tm ta tb tc cap : Word} (ha : ta ≠ 0) (hb : tb ≠ 0) (hc : tc ≠ 0) :
    (s.booted tm ta tb tc cap).PhaseReset := by
  intro x
  rw [State.booted_pg]
  exact ⟨rfl, pgPeriodOf_toNat_lt (perGen_ne_zero ha hb hc x)⟩

/-! ## A generator up to its next cycle start (R72, R73, R152) -/

/-- A `PGSET` that puts the period at or below the `pos` in flight makes the next sub-step a cycle start (R151). -/
theorem PulseGen.setPeriod_wraps {g : PulseGen} {ticks : Word} (h : ticks ≠ 0) (hle : ticks.toNat ≤ g.pos.toNat + 1)
    (hmax : g.pos.toNat < MAXW) (cap : Word) : (g.setPeriod ticks cap).wraps = true := by
  have hsucc := pgPeriodOf_toNat_succ h
  rw [PulseGen.wraps_iff, PulseGen.setPeriod_period, PulseGen.setPeriod_pos]
  unfold MAXW at hmax
  omega

theorem PulseGen.clocked_add (m n : Nat) (g : PulseGen) :
    PulseGen.clocked (m + n) g = PulseGen.clocked n (PulseGen.clocked m g) := by
  induction n with
  | zero => rfl
  | succ n ih => rw [← Nat.add_assoc, PulseGen.clocked_succ_last, ih, PulseGen.clocked_succ_last]

/-- The rest of the cycle, and one call more, end at the cycle start (R72). -/
theorem PulseGen.clocked_freshlyReset_of_inCycle {g : PulseGen} (h : g.InCycle) :
    (PulseGen.clocked (g.period.toNat + 1 - g.pos.toNat) g).FreshlyReset := by
  have hpos : g.pos.toNat ≤ g.period.toNat := h.1
  have hcycle : g.pos.toNat + (g.period.toNat - g.pos.toNat) + 1 = g.period.toNat + 1 := by omega
  have hw : (PulseGen.clocked (g.period.toNat - g.pos.toNat) g).wraps = true := by
    rw [PulseGen.clocked_wraps_of_inCycle h, hcycle]
    exact decide_eq_true (Nat.mod_self _)
  rw [Nat.succ_sub hpos, PulseGen.clocked_succ_last]
  exact PulseGen.clock_freshlyReset hw

/-- Until the cycle start the output keeps its level when it is low, or when `pos` is past the pulse end (R66, R73). -/
theorem PulseGen.clocked_out_before_cycleStart {g : PulseGen} (h : g.InCycle) (hkeeps : g.duty ≤ g.pos ∨ g.out = false)
    {k : Nat} (hk : k < g.period.toNat + 1 - g.pos.toNat) : (PulseGen.clocked k g).out = g.out := by
  induction k with
  | zero => rfl
  | succ k ih =>
    have hw : (PulseGen.clocked k g).wraps = false := by
      rw [PulseGen.clocked_wraps_of_inCycle h, Nat.mod_eq_of_lt (by omega)]
      exact decide_eq_false (Nat.succ_ne_zero _)
    rw [PulseGen.clocked_succ_last, PulseGen.clock_of_not_wraps hw]
    simp only [PulseGen.outAtDuty, PulseGen.clocked_duty, ih (Nat.lt_of_succ_lt hk)]
    split
    case isFalse => rfl
    case isTrue hmeets =>
      obtain hpast | hlow := hkeeps
      · have hpast : g.duty.toNat ≤ g.pos.toNat := hpast
        have hmax : g.period.toNat < 65535 := h.2
        have hpos : (PulseGen.clocked k g).pos.toNat = g.pos.toNat + k := by
          rw [PulseGen.clocked_pos_of_inCycle h, cyclePos_toNat]
          exact Nat.mod_eq_of_lt (by omega)
        rw [← BitVec.toNat_inj, advance_toNat, hpos] at hmeets
        omega
      · exact hlow.symm

/-- From the cycle start on a pulsing generator gives its waveform (R74). -/
theorem PulseGen.clocked_out_from_cycleStart {g : PulseGen} (hp : g.Pulsing) (hpos : g.pos ≤ g.period) (j : Nat) :
    (PulseGen.clocked (g.period.toNat + 1 - g.pos.toNat + j) g).out =
      decide (j % (g.period.toNat + 1) < g.duty.toNat) := by
  have hfresh := PulseGen.clocked_freshlyReset_of_inCycle ⟨hpos, hp.2.2⟩
  have hpulsing : (PulseGen.clocked (g.period.toNat + 1 - g.pos.toNat) g).Pulsing := by
    rwa [PulseGen.Pulsing, PulseGen.clocked_period, PulseGen.clocked_duty]
  rw [PulseGen.clocked_add, PulseGen.clocked_eq_atSubStep hfresh hpulsing, PulseGen.atSubStep, PulseGen.clocked_period,
    PulseGen.clocked_duty]

end Sys2Proof.Machine

namespace Sys2Proof.Proofs

open Sys2Proof.Machine

/-- Settles O9: every draw leaves the outputs ASSERTED, and so does the reset state's. -/
theorem resetAssertsOutputs : Obligations.ResetAssertsOutputs := by
  unfold Obligations.ResetAssertsOutputs
  refine ⟨fun s rest hs => ⟨_, step_of_event hs, State.applyReset_out _ _⟩, fun x => ?_⟩
  cases x <;> rfl

/-- Settles O40: no tick is a master wrap, and such ticks move `MS.pos` only. -/
theorem maximalMasterPeriodStopsGenerators : Obligations.MaximalMasterPeriodStopsGenerators := by
  unfold Obligations.MaximalMasterPeriodStopsGenerators
  intro s n hmax
  have hnone (j : Nat) : (s.afterTicks j).ms.wraps = false :=
    Master.wraps_of_period_max (by rw [State.afterTicks_ms_period]; exact hmax)
  have heq := State.afterTicks_eq_withMsPos (s := s) (n := n) fun j _ => hnone j
  refine ⟨s.afterTicks n, runTicks_eq_afterTicks s n, ?msPos, hnone n, ?frame, ?rest⟩
  case msPos =>
    have hperiod : s.ms.period.toNat = 65535 := hmax
    exact State.afterTicks_ms_pos_of_no_wrap fun j _ => by omega
  case frame => rw [heq]; exact s.sameBut_withMsPos _
  case rest => rw [heq]; exact s.sameRest_withMs _

/-- Settles O45: `booted` is what the commands leave, no generator changes up to the first master wrap, and there every one
of them, being just phase-reset, has its cycle start. -/
theorem bootNormalisesTheMachine : Obligations.BootNormalisesTheMachine := by
  unfold Obligations.BootNormalisesTheMachine
  intro s tm ta tb tc cap hmax ha hb hc
  have hperiod := s.booted_ms_period tm ta tb tc cap
  have hpg := s.booted_pg tm ta tb tc cap
  have hreset := s.booted_phaseReset (tm := tm) (cap := cap) ha hb hc
  refine ⟨s.booted tm ta tb tc cap, runEvents_bootCommands s tm ta tb tc cap, hperiod, s.booted_violation ha hb hc,
    fun x => ?parameters, ?_⟩
  case parameters =>
    rw [hpg]
    exact ⟨pgPeriodOf_toNat_succ (perGen_ne_zero ha hb hc x), pgDutyOf_toNat _ cap, rfl, rfl⟩
  have hms : (s.booted tm ta tb tc cap).ms.period.toNat < MAXW := by rwa [hperiod]
  have hbound := (s.booted tm ta tb tc cap).ms.ticksToWrap_le
  rw [hperiod] at hbound
  obtain ⟨hpos, hpending, hfresh⟩ := hreset.firstMasterWrap hms
  refine ⟨_, Nat.le_add_left 1 _, Nat.succ_le_succ hbound, fun m hm => ?before, _, runTicks_eq_afterTicks _ _,
    (State.afterTicks_ms_period _ _).trans hperiod, hpos, hpending .B, hpending .C, hfresh⟩
  case before =>
    have hle := Nat.le_of_lt_succ hm
    refine ⟨_, runTicks_eq_afterTicks _ m, ?_, State.afterTicks_pg_of_le hms hle⟩
    rw [State.afterTicks_ms_wraps_of_le hms hle, decide_eq_decide, Nat.succ_inj]

/-- Settles O46: the shortened cycle is over, and a phase reset in the same tick comes to the same. -/
theorem shorterPeriodCutsTheCycle : Obligations.ShorterPeriodCutsTheCycle := by
  unfold Obligations.ShorterPeriodCutsTheCycle
  intro s x ticks cap h1 hle hmax hw
  have hne : ticks ≠ 0 := by rintro rfl; exact absurd h1 (by decide)
  have hpgset : applyEvent (eventOf (Instr.pgset x ticks cap)) s = .next (s.setPeriod x ticks cap) := by
    rw [applyEvent_eventOf, exec_pgset]
  have hmaster : (s.setPeriod x ticks cap).ms.wraps = true := by rwa [State.setPeriod_ms]
  have htick : runEvents [.tick] (s.setPeriod x ticks cap) = .next ((s.setPeriod x ticks cap).clockMaster .afterA) :=
    runTicks_eq_afterTicks _ 1
  refine ⟨_, (runEvents_cons_of_next hpgset _).trans htick, ?_⟩
  obtain e | e := State.clockMaster_pg_of_wraps hmaster x <;> rw [e, State.setPeriod_pg_self]
  · exact PulseGen.clock_freshlyReset (PulseGen.setPeriod_wraps hne hle hmax cap)
  · exact PulseGen.clock_freshlyReset (PulseGen.resetPhase_wraps (pgPeriodOf_toNat_lt hne))

/-- Settles O47: past its pulse end the output keeps its level up to the cycle start, and from there on it has the waveform
of a whole cycle. -/
theorem missedPulseEndStretchesTheHighPhase : Obligations.MissedPulseEndStretchesTheHighPhase := by
  unfold Obligations.MissedPulseEndStretchesTheHighPhase
  intro g hp hout hpast hpos
  obtain ⟨-, hduty, hmax⟩ := id hp
  have hlt : g.duty.toNat < g.period.toNat + 1 := Nat.lt_succ_of_le hduty
  constructor
  · intro k hk
    obtain hbefore | hfrom := Nat.lt_or_ge k (g.period.toNat + 1 - g.pos.toNat)
    · rw [PulseGen.clocked_out_before_cycleStart ⟨hpos, hmax⟩ (.inl hpast) hbefore, hout]
    · obtain ⟨j, rfl⟩ := Nat.exists_eq_add_of_le hfrom
      have hj : j < g.duty.toNat := Nat.lt_of_add_lt_add_left hk
      rw [PulseGen.clocked_out_from_cycleStart hp hpos, Nat.mod_eq_of_lt (hj.trans hlt)]
      exact decide_eq_true hj
  · rw [PulseGen.clocked_out_from_cycleStart hp hpos, Nat.mod_eq_of_lt hlt]
    exact decide_eq_false (Nat.lt_irrefl _)

/-- Settles O48: a low output keeps its level up to the cycle start, which raises it. -/
theorem toggledLowUntilCycleStart : Obligations.ToggledLowUntilCycleStart := by
  unfold Obligations.ToggledLowUntilCycleStart
  intro g hg hout
  have hlow : g.toggle.out = false := congrArg not hout
  have hcycle : g.toggle.InCycle := hg
  obtain ⟨-, hraised⟩ := PulseGen.clocked_freshlyReset_of_inCycle hcycle
  exact ⟨fun k hk => (PulseGen.clocked_out_before_cycleStart hcycle (.inr hlow) hk).trans hlow, hraised⟩

end Sys2Proof.Proofs
